-- ==== Sys2Proof/Word.lean ====
section
/-! DEFINITION. The word type of the Padding engine: every register, command and frame-buffer element is a
32-bit word (spec/00_scope.md R7, spec/20_memory.md R64). Only the plainest arithmetic stands here. -/

namespace Sys2Proof

/-- A register, a command word or a frame-buffer element: 32 bits, bit 0 least significant (R8, R64). -/
abbrev Word := BitVec 32

/-- One byte lane of a register access (R64). -/
abbrev Byte := BitVec 8

/-- `s32(v)`: the word read as a two's complement integer (R8). -/
abbrev s32 (v : Word) : Int := v.toInt

/-- `u32(n)`: the 32-bit two's complement word of an integer (R8). R8 defines it for −2^31 ≤ n ≤ 2^31 − 1 only; outside
that range this wraps modulo 2^32 (DESIGN CHOICE, notes/assumptions/16.md). Every value a command stores is inside. -/
abbrev u32 (n : Int) : Word := BitVec.ofInt 32 n

end Sys2Proof
end

