-- ==== Sys2Proof/Syntax.lean ====
section
/-! DEFINITION. The commands of the PE command set, one constructor per row of spec/opcode_table.json
(spec/30_encoding.md R96, R97), and the verdicts of the decoder (R98). -/

namespace Sys2Proof

/-- A command with its operands. `d` is DST, `a` SRCA and `b` SRCB: buffer indices, 0 to 15 in an encodable
command (R93). An index 8 to 15 is a command that fails with BAD_BUFFER (R101). -/
inductive Instr where
  /-- NOP: no operation (R234) -/
  | nop
  /-- PAD: zero-pad `a` into `d` (R121) -/
  | pad (d a : Nat)
  /-- MEDIAN: 3×3 median of `a` into `d` (R141) -/
  | median (d a : Nat)
  /-- CONV.H: convolve `a` with `horizontal` into `d` (R163) -/
  | convH (d a : Nat)
  /-- CONV.V: convolve `a` with `vertical` into `d` (R164) -/
  | convV (d a : Nat)
  /-- CONV.D45: convolve `a` with `diag45` into `d` (R165) -/
  | convD45 (d a : Nat)
  /-- CONV.D135: convolve `a` with `diag135` into `d` (R166) -/
  | convD135 (d a : Nat)
  /-- NORM: normalize `a` into `d` (R191) -/
  | norm (d a : Nat)
  /-- MAGNORM: normalize the magnitude of gradients `a` (X) and `b` (Y) into `d` (R197) -/
  | magnorm (d a b : Nat)
  /-- WINDOW: the 3×3 window of `a` at CMD_ARG into `d` (R123) -/
  | window (d a : Nat)
deriving DecidableEq, Repr

/-- The buffer fields a command uses, destination first (R95, R265). -/
def Instr.buffers : Instr → List Nat
  | .nop => []
  | .pad d a => [d, a]
  | .median d a => [d, a]
  | .convH d a => [d, a]
  | .convV d a => [d, a]
  | .convD45 d a => [d, a]
  | .convD135 d a => [d, a]
  | .norm d a => [d, a]
  | .magnorm d a b => [d, a, b]
  | .window d a => [d, a]

/-- The decoder's answer to a word: exactly one of three verdicts (R98). -/
inductive Verdict where
  /-- a command with its operands -/
  | instr (i : Instr)
  /-- an illegal encoding; completes with error code 1 (R99, R263) -/
  | illegalOp
  /-- CONV with a KSEL that names no kernel; completes with error code 2 (R264) -/
  | shapeMismatch
deriving DecidableEq, Repr

end Sys2Proof
end

