-- ==== Sys2Proof/WellFormed.lean ====
section
/-! DEFINITION. Which terms of `Instr` are commands: every buffer operand fits its 4-bit field
(spec/30_encoding.md R93). Whether an index names a buffer is no matter of form: completion checks it (R98, R101). -/

namespace Sys2Proof

/-- A buffer operand that a 4-bit field holds: `b0` to `b15` (R93, R104). -/
def fitsField (n : Nat) : Bool := decide (n < 16)

/-- Every operand of the command fits its field. -/
def Instr.wf : Instr → Bool
  | .nop => true
  | .pad d a => fitsField d && fitsField a
  | .median d a => fitsField d && fitsField a
  | .convH d a => fitsField d && fitsField a
  | .convV d a => fitsField d && fitsField a
  | .convD45 d a => fitsField d && fitsField a
  | .convD135 d a => fitsField d && fitsField a
  | .norm d a => fitsField d && fitsField a
  | .magnorm d a b => fitsField d && fitsField a && fitsField b
  | .window d a => fitsField d && fitsField a

end Sys2Proof
end

