-- ==== Sys2Proof/Decode.lean ====
section
/-! DEFINITION. The command format F1, the decoder and the encoder (spec/30_encoding.md R90 to R102), and the
byte lanes a word is carried on (spec/20_memory.md R64). -/

namespace Sys2Proof

/-- `w[hi:lo]`, read as an unsigned number (spec/00_scope.md R8). -/
def bitField (w : Word) (hi lo : Nat) : Nat := w.toNat / 2 ^ lo % 2 ^ (hi + 1 - lo)

/-- `w[i]` (R8). -/
def bitAt (w : Word) (i : Nat) : Bool := decide (bitField w i i = 1)

/-- OP, bits [3:0] (R91). -/
def opField (w : Word) : Nat := bitField w 3 0

/-- KSEL, bits [7:4] (R92). -/
def kselField (w : Word) : Nat := bitField w 7 4

/-- DST, bits [11:8] (R93). -/
def dstField (w : Word) : Nat := bitField w 11 8

/-- SRCA, bits [15:12] (R93). -/
def srcaField (w : Word) : Nat := bitField w 15 12

/-- SRCB, bits [19:16] (R93). -/
def srcbField (w : Word) : Nat := bitField w 19 16

/-- RSVD, bits [31:20] (R94). -/
def rsvdField (w : Word) : Nat := bitField w 31 20

/-- KSEL and SRCB both "must be 0" (R95): the shape of every row with two buffer operands. -/
def plainOrIllegal (w : Word) (i : Instr) : Verdict :=
  if kselField w ≠ 0 ∨ srcbField w ≠ 0 then .illegalOp else .instr i

/-- CONV by kernel: KSEL 0 to 3 name the four kernels, no other value names one (R97). -/
def decodeConv (w : Word) : Verdict :=
  if srcbField w ≠ 0 then .illegalOp
  else match kselField w with
    | 0 => .instr (.convH (dstField w) (srcaField w))
    | 1 => .instr (.convV (dstField w) (srcaField w))
    | 2 => .instr (.convD45 (dstField w) (srcaField w))
    | 3 => .instr (.convD135 (dstField w) (srcaField w))
    | _ => .shapeMismatch

/-- The decoder: total, one verdict for every 32-bit word (R98). -/
def decode (w : Word) : Verdict :=
  if rsvdField w ≠ 0 then .illegalOp
  else match opField w with
    | 0 => if bitField w 19 4 ≠ 0 then .illegalOp else .instr .nop
    | 1 => plainOrIllegal w (.pad (dstField w) (srcaField w))
    | 2 => plainOrIllegal w (.median (dstField w) (srcaField w))
    | 3 => decodeConv w
    | 4 => plainOrIllegal w (.norm (dstField w) (srcaField w))
    | 5 => if kselField w ≠ 0 then .illegalOp
           else .instr (.magnorm (dstField w) (srcaField w) (srcbField w))
    | 6 => plainOrIllegal w (.window (dstField w) (srcaField w))
    | _ => .illegalOp

/-- The word of the given fields, RSVD = 0: `OP | KSEL<<4 | DST<<8 | SRCA<<12 | SRCB<<16`, the fields not
overlapping (R90). -/
def assemble (op ksel d a b : Nat) : Word :=
  BitVec.ofNat 32 (op + ksel * 2 ^ 4 + d * 2 ^ 8 + a * 2 ^ 12 + b * 2 ^ 16)

/-- The one word of a well-formed command (R95, R105). -/
def encode : Instr → Word
  | .nop => assemble 0 0 0 0 0
  | .pad d a => assemble 1 0 d a 0
  | .median d a => assemble 2 0 d a 0
  | .convH d a => assemble 3 0 d a 0
  | .convV d a => assemble 3 1 d a 0
  | .convD45 d a => assemble 3 2 d a 0
  | .convD135 d a => assemble 3 3 d a 0
  | .norm d a => assemble 4 0 d a 0
  | .magnorm d a b => assemble 5 0 d a b
  | .window d a => assemble 6 0 d a 0

/-- A word on the byte lanes of a bus: bits [7:0] at the lowest address (R64). -/
def toLanes (w : Word) : List Byte :=
  [BitVec.ofNat 8 (bitField w 7 0), BitVec.ofNat 8 (bitField w 15 8),
   BitVec.ofNat 8 (bitField w 23 16), BitVec.ofNat 8 (bitField w 31 24)]

/-- The word that byte lanes carry: only a 32-bit access carries one (R64, R65). -/
def ofLanes : List Byte → Option Word
  | [b0, b1, b2, b3] =>
    some (BitVec.ofNat 32 (b0.toNat + b1.toNat * 2 ^ 8 + b2.toNat * 2 ^ 16 + b3.toNat * 2 ^ 24))
  | _ => none

/-- The decoder on bytes: one verdict for four lanes, none for any other number of bytes (a command is exactly
32 bits, R102). -/
def decodeLanes (lanes : List Byte) : Option Verdict := (ofLanes lanes).map decode

/-- The command the decoder reads from the `nbits`-bit number `w` of a row of spec/opcode_table.json, laid out on
the byte lanes the host bus carries; none where the verdict is no command. -/
def decodeTableWord (nbits w : Nat) : Option Instr :=
  if w % 2 ^ nbits < 2 ^ 32 then
    match decodeLanes (toLanes (BitVec.ofNat 32 (w % 2 ^ nbits))) with
    | some (.instr i) => some i
    | _ => none
  else none

end Sys2Proof
end

