-- ==== Sys2Proof/Config.lean ====
section
/-! DEFINITION. What the spec fixes for every engine, what it leaves as a parameter of one engine
(spec/00_scope.md R7), and the values it leaves unspecified (spec/93_implementation_defined.md U1, U12). -/

namespace Sys2Proof

/-- The OPEN parameters of R7: the size limits and the platform's base address. They are constants of one
engine; State carries them so that every statement about a state speaks of every engine
(DESIGN CHOICE, safe: notes/assumptions/1.md). -/
structure Params where
  /-- HMAX, the largest image height a command accepts -/
  hmax : Nat
  /-- WMAX, the largest image width a command accepts -/
  wmax : Nat
  /-- ENGINE_BASE, the platform's address of the 256-byte register block -/
  engineBase : Nat
deriving DecidableEq, Repr

/-- The bounds R7 puts on the parameters: 1 ≤ HMAX ≤ 65533 and 1 ≤ WMAX ≤ 65533. -/
abbrev Params.wf (p : Params) : Prop :=
  1 ≤ p.hmax ∧ p.hmax ≤ 65533 ∧ 1 ≤ p.wmax ∧ p.wmax ≤ 65533

/-- NBUF = 8 (R7, spec/10_state.md R40). -/
abbrev Config.nbuf : Nat := 8

/-- HMAX − 1 of the engine that `State.reset` describes: any value the bounds of R7 allow (U12).
No body: nothing can be proved from its value. -/
opaque Config.hmaxLess1 : Fin 65533

/-- WMAX − 1 of the engine that `State.reset` describes, as `Config.hmaxLess1`. -/
opaque Config.wmaxLess1 : Fin 65533

/-- ENGINE_BASE of the engine that `State.reset` describes: the platform's choice (R7, U12). -/
opaque Config.engineBase : Nat

/-- FREE VALUE (U1, U11; notes/assumptions/2.md): the word that frame-buffer element `address` holds after the
`epoch`-th reset, for as long as nothing has written it. No body: it may differ between elements and resets. -/
opaque Config.unwritten (epoch address : Nat) : Word

/-- The parameters of the engine that `State.reset` describes. -/
def Config.params : Params :=
  { hmax := Config.hmaxLess1.val + 1, wmax := Config.wmaxLess1.val + 1, engineBase := Config.engineBase }

end Sys2Proof
end

