-- ==== Sys2Proof/Machine/State.lean ====
section
/-! DEFINITION. The state of the engine (spec/10_state.md R20 to R45), of the host agent that drives it
(spec/20_memory.md R76, spec/44_system.md R236) and the order in which the agents move; plain data throughout.
The reset state is spec/70_reset_and_hazards.md R301. -/

namespace Sys2Proof.Machine

/-- Why a step would stop with a fault. There is NO such reason: "The engine takes no traps" (R260); every error
of the spec is a next state that reports a code in STATUS. The type is closed and empty, which is safe: nothing
is stopped that the engine would run (notes/assumptions/11.md). -/
inductive Fault where
deriving DecidableEq, Repr

/-- Why a step would be refused. -/
inductive Refusal where
  /-- raised by `exec`'s arm of an instruction that has no meaning yet; safe. No arm raises it: every row of the
  opcode table has its meaning. -/
  | notModelled (mnemonic : String)
deriving DecidableEq, Repr

/-- The error codes of R261. Codes 7 to 15 are reserved and never written (U6), so no constructor has them. -/
inductive ErrCode where
  | none | illegalOp | shapeMismatch | badBuffer | invalidInput | badArg | overflow
deriving DecidableEq, Repr

/-- STATUS (R28), field by field; bits [31:10] are reserved, read 0 and are not held. -/
structure Status where
  /-- bit 0, a command is in flight (R29) -/
  busy : Bool
  /-- bit 1, a command has completed (R30) -/
  done : Bool
  /-- bit 2, the last completed command failed (R31) -/
  err : Bool
  /-- bit 3, the last completed command was a degenerate normalization (R32) -/
  degen : Bool
  /-- bits [7:4], error code of the last completed command (R33) -/
  errCode : ErrCode
  /-- bit 8, sticky: a host access collided with a command in flight (R34) -/
  busyViol : Bool
  /-- bit 9, sticky: a host-port access was out of range (R35) -/
  hpErr : Bool
deriving DecidableEq, Repr

/-- IRQ_EN (R36), field by field; bits [31:3] are reserved, read 0 and are not held. -/
structure IrqEn where
  /-- bit 0, enables STATUS.DONE -/
  doneIe : Bool
  /-- bit 1, enables STATUS.ERR -/
  errIe : Bool
  /-- bit 2, enables STATUS.BUSYVIOL and STATUS.HPERR -/
  violIe : Bool
deriving DecidableEq, Repr

/-- The registers of the block, 0x00 to 0x3C (R21). -/
inductive Reg where
  | id | caps | capsDim | imgDim | cmdArg | cmd | status | irqEn
  | scanMinLo | scanMinHi | scanMaxLo | scanMaxHi | hpBuf | hpIdx | hpData | errInfo
deriving DecidableEq, Repr

/-- The frame buffers' written elements: (element address, word) pairs, addresses strictly rising, one pair for
each element written since the last reset and none for any other. An unlisted element is one that nothing has
written; reading it gives the free value `Config.unwritten` (U1). The unit is the element, not the byte: "The
engine has no byte-addressed data memory" (R11; notes/assumptions/2.md). -/
abbrev Memory := List (Nat × Word)

/-- One operation of the host agent: a register access on its bus, or one of the two control statements. -/
inductive HostOp where
  /-- a bus read of `size` bytes at byte address `addr` -/
  | read (addr size : Nat)
  /-- a bus write of the bytes `lanes`, lowest address first, at byte address `addr` -/
  | write (addr : Nat) (lanes : List Byte)
  /-- `wait` (R109): read STATUS until its bit 0 is 0 -/
  | waitIdle
  /-- the second half of `waitok` (R110): read STATUS and stop the host program if its bit 2 is 1 -/
  | stopIfErr
deriving DecidableEq, Repr

/-- The host agent (R20, R236): what it still has to do, what its reads returned, and whether `waitok` has
stopped it. The spec's agent, the model's fields (notes/assumptions/4.md). -/
structure HostAgent where
  /-- the operations still to perform, in program order -/
  program : List HostOp
  /-- the words its read operations returned, oldest first -/
  reads : List Word
  /-- a `waitok` met STATUS.ERR = 1 -/
  stopped : Bool
deriving DecidableEq, Repr

/-- Whose atomic step comes next (R76, R230). -/
inductive Turn where
  /-- one operation of the host -/
  | host
  /-- the engine's completion step, which does nothing while no command is in flight -/
  | engine
  /-- the platform's reset input (R300) -/
  | reset
deriving DecidableEq, Repr

/-- The whole state. The command in flight is present exactly when `status.busy`, and its word is `cmd` (R20,
R230). ID, CAPS and CAPS_DIM are constants (R22 to R24) and HP_DATA is no storage (R21), so none is held. -/
structure State where
  /-- HMAX, WMAX and ENGINE_BASE (R7): the model's way to take them as an argument; no step changes them -/
  params : Params
  /-- IMG_DIM (R25) -/
  imgDim : Word
  /-- CMD_ARG (R26) -/
  cmdArg : Word
  /-- CMD, the last accepted command word (R27) -/
  cmd : Word
  /-- STATUS (R28) -/
  status : Status
  /-- IRQ_EN (R36) -/
  irqEn : IrqEn
  /-- SCAN_MIN, both halves (R37) -/
  scanMin : BitVec 64
  /-- SCAN_MAX, both halves (R37) -/
  scanMax : BitVec 64
  /-- HP_BUF.BUF, bits [3:0] (R38) -/
  hpBuf : BitVec 4
  /-- HP_IDX (R38) -/
  hpIdx : Word
  /-- ERR_INFO (R39) -/
  errInfo : Word
  /-- the frame buffers (R40) -/
  mem : Memory
  /-- the model's own: which reset the unwritten elements date from (U1, U11) -/
  epoch : Nat
  /-- the model's own: the order of the agents' next steps, as far as it is decided (U10) -/
  turns : List Turn
  /-- the host agent -/
  host : HostAgent
deriving DecidableEq, Repr

/-- STATUS after reset, 0x0000_0000 (R301). -/
def Status.reset : Status :=
  { busy := false, done := false, err := false, degen := false, errCode := .none, busyViol := false, hpErr := false }

/-- The machine right after reset, for the engine of the given parameters (R301, R302): every register 0, no
command in flight, no frame-buffer element written. The model's own fields start at 0 and empty (DESIGN CHOICE). -/
def State.resetWith (p : Params) : State :=
  { params := p, imgDim := 0, cmdArg := 0, cmd := 0, status := .reset
    irqEn := { doneIe := false, errIe := false, violIe := false }
    scanMin := 0, scanMax := 0, hpBuf := 0, hpIdx := 0, errInfo := 0
    mem := [], epoch := 0, turns := []
    host := { program := [], reads := [], stopped := false } }

/-- The machine right after reset, for an engine of any parameters R7 allows. -/
def State.reset : State := State.resetWith Config.params

end Sys2Proof.Machine
end

