-- ==== Sys2Proof/Machine/Operands.lean ====
section
/-! DEFINITION. The operands of a command: the implicit ones it reads from IMG_DIM and CMD_ARG
(spec/30_encoding.md R103), and where a buffer element lies (spec/20_memory.md R60, R61). -/

namespace Sys2Proof.Machine

/-- H = IMG_DIM[15:0] (R25). -/
def State.imgH (s : State) : Nat := bitField s.imgDim 15 0

/-- W = IMG_DIM[31:16] (R25). -/
def State.imgW (s : State) : Nat := bitField s.imgDim 31 16

/-- CROW = CMD_ARG[15:0] (R26). -/
def State.crow (s : State) : Nat := bitField s.cmdArg 15 0

/-- CCOL = CMD_ARG[31:16] (R26). -/
def State.ccol (s : State) : Nat := bitField s.cmdArg 31 16

/-- CAP = (HMAX+2)·(WMAX+2), the elements of one frame buffer (R7, R40). -/
def capOf (p : Params) : Nat := (p.hmax + 2) * (p.wmax + 2)

/-- `valid_dims(H, W)` (R266). -/
abbrev validDims (s : State) : Prop :=
  1 ≤ s.imgH ∧ 1 ≤ s.imgW ∧ s.imgH ≤ s.params.hmax ∧ s.imgW ≤ s.params.wmax

/-- The WINDOW centre lies in [1, H] × [1, W] (R267). -/
abbrev validCentre (s : State) : Prop :=
  1 ≤ s.crow ∧ s.crow ≤ s.imgH ∧ 1 ≤ s.ccol ∧ s.ccol ≤ s.imgW

/-- The buffer exists: its index is below NBUF (R265). -/
abbrev isBuffer (b : Nat) : Prop := b < Config.nbuf

/-- The key of element `k` of buffer `b` in `Memory`: one number for each pair (buffer, element index), the
pair's buffer below NBUF (R60). It is the model's numbering; no host access sees it. -/
def elemAddr (b k : Nat) : Nat := k * Config.nbuf + b

end Sys2Proof.Machine
end

