-- ==== Sys2Proof/Machine/Flags.lean ====
section
/-! DEFINITION. The words of STATUS and IRQ_EN, the write-1-to-clear rule and the interrupt output
(spec/10_state.md R28 to R36, spec/60_exceptions.md R261, R271, R272). -/

namespace Sys2Proof.Machine

/-- The 4-bit value of an error code (R261). -/
def ErrCode.toNat : ErrCode → Nat
  | .none => 0
  | .illegalOp => 1
  | .shapeMismatch => 2
  | .badBuffer => 3
  | .invalidInput => 4
  | .badArg => 5
  | .overflow => 6

/-- STATUS as the host reads it (R28). -/
def Status.toWord (st : Status) : Word :=
  BitVec.ofNat 32
    (st.busy.toNat + st.done.toNat * 2 ^ 1 + st.err.toNat * 2 ^ 2 + st.degen.toNat * 2 ^ 3
      + st.errCode.toNat * 2 ^ 4 + st.busyViol.toNat * 2 ^ 8 + st.hpErr.toNat * 2 ^ 9)

/-- A host write `v` to STATUS: DONE, ERR, BUSYVIOL and HPERR are cleared where `v` has a 1, everything else
ignores the write (R28). -/
def Status.clearOnes (st : Status) (v : Word) : Status :=
  { st with
    done := st.done && !bitAt v 1
    err := st.err && !bitAt v 2
    busyViol := st.busyViol && !bitAt v 8
    hpErr := st.hpErr && !bitAt v 9 }

/-- IRQ_EN as the host reads it (R36). -/
def IrqEn.toWord (e : IrqEn) : Word :=
  BitVec.ofNat 32 (e.doneIe.toNat + e.errIe.toNat * 2 ^ 1 + e.violIe.toNat * 2 ^ 2)

/-- What a host write `v` leaves in IRQ_EN: bits [2:0] (R36, R67). -/
def IrqEn.ofWord (v : Word) : IrqEn :=
  { doneIe := bitAt v 0, errIe := bitAt v 1, violIe := bitAt v 2 }

/-- The interrupt output IRQ, a function of the current state (R271). -/
def irq (s : State) : Bool :=
  (s.status.done && s.irqEn.doneIe) || (s.status.err && s.irqEn.errIe)
    || ((s.status.busyViol || s.status.hpErr) && s.irqEn.violIe)

end Sys2Proof.Machine
end

