-- ==== Sys2Proof/Machine/Ops.lean ====
section
/-! DEFINITION. The operations every step is made of: the frame-buffer memory, issue, the two ends of a command
(`done()` and `fail(code, info)`), reset, the host port and the register block (spec/20_memory.md,
spec/44_system.md R230 to R233, spec/60_exceptions.md R262, spec/70_reset_and_hazards.md R300 to R303). -/

namespace Sys2Proof.Machine

/-! ### Memory -/

/-- The canonical form: element addresses strictly rise. Every entry is an element written since reset, so no entry
stands for what an unlisted address reads as. -/
abbrev Memory.wf (m : Memory) : Prop := m.Pairwise fun x y => x.1 < y.1

/-- The word last written at address `x` since reset, if any. -/
def Memory.find : Memory → Nat → Option Word
  | [], _ => none
  | (a, v) :: m, x => if x = a then some v else Memory.find m x

/-- Write `v` at address `x`, keeping the addresses rising. -/
def Memory.store : Memory → Nat → Word → Memory
  | [], x, v => [(x, v)]
  | (a, w) :: m, x, v =>
    if x < a then (x, v) :: (a, w) :: m
    else if x = a then (x, v) :: m
    else (a, w) :: Memory.store m x v

/-- The word of `Buf[b][k]`: the one last written, or the free value of an element nothing has written since
reset (R11, R82, R84). -/
def elemWord (s : State) (b k : Nat) : Word :=
  (s.mem.find (elemAddr b k)).getD (Config.unwritten s.epoch (elemAddr b k))

/-- `Buf[b][k]` read as S32 (R11). -/
def elem (s : State) (b k : Nat) : Int := s32 (elemWord s b k)

/-- `Buf[d][k] <- out[0]`, `Buf[d][k+1] <- out[1]`, … -/
def storeRun (m : Memory) (d : Nat) : Nat → List Int → Memory
  | _, [] => m
  | k, v :: vs => storeRun (m.store (elemAddr d k) (u32 v)) d (k + 1) vs

/-- Commit the output of a command to elements 0, 1, … of its destination (R61, R62). All of `out` was computed
before, from the state at issue, so any operands may alias (R77). -/
def writeBuffer (d : Nat) (out : List Int) (s : State) : State :=
  { s with mem := storeRun s.mem d 0 out }

/-! ### The life of a command -/

/-- `Issue(w)` (R231): the word becomes the command in flight and the last outcome is cleared. The sticky flags
BUSYVIOL and HPERR stay. -/
def issue (w : Word) (s : State) : State :=
  { s with
    cmd := w
    status := { s.status with busy := true, done := false, err := false, errCode := .none, degen := false }
    errInfo := 0 }

/-- `done()` (R233): the command in flight ends well. -/
def commandDone (s : State) : State :=
  { s with status := { s.status with done := true, busy := false } }

/-- `fail(code, info)` (R262): the engine's one way to take an error. The cause goes to ERRCODE, the info to
ERR_INFO, the command ends; no buffer, SCAN register or DEGEN is written and control goes nowhere (R273). There is
no return from it: the host acknowledges by a W1C write or by the next issue (R274). -/
def commandFail (code : ErrCode) (info : Nat) (s : State) : State :=
  { s with
    status := { s.status with errCode := code, err := true, done := true, busy := false }
    errInfo := BitVec.ofNat 32 info }

/-- The checks every command but NOP makes before it computes: BAD_BUFFER, then INVALID_INPUT (R265, R266, R270). -/
def imageCheck (bufs : List Nat) (s : State) : Option ErrCode :=
  if bufs.all (fun b => decide (isBuffer b)) = false then some .badBuffer
  else if ¬ validDims s then some .invalidInput
  else none

/-- A command that passes the common checks runs `body`; one that does not fails with info 0. -/
def runChecked (bufs : List Nat) (body : State → State) (s : State) : State :=
  match imageCheck bufs s with
  | some code => commandFail code 0 s
  | none => body s

/-- The platform's reset (R300 to R303): every register at its reset value, no command in flight, every
frame-buffer element unspecified anew. The parameters are constants. The host and the order of the turns lie
outside the engine and stay (notes/assumptions/8.md). -/
def resetEngine (s : State) : State :=
  { State.resetWith s.params with epoch := s.epoch + 1, turns := s.turns, host := s.host }

/-! ### The host port (R69 to R73) -/

/-- STATUS.BUSYVIOL <- 1 (R34). -/
def setBusyViol (s : State) : State := { s with status := { s.status with busyViol := true } }

/-- STATUS.HPERR <- 1 (R35). -/
def setHpErr (s : State) : State := { s with status := { s.status with hpErr := true } }

/-- The element the host port addresses exists: BUF < NBUF and IDX < CAP (R72). -/
abbrev portInRange (s : State) : Prop := isBuffer s.hpBuf.toNat ∧ s.hpIdx.toNat < capOf s.params

/-- `HostPortRead()` (R70): the word read and the state after. -/
def portRead (s : State) : Word × State :=
  if s.status.busy then (0, setBusyViol s)
  else if ¬ portInRange s then (0, setHpErr s)
  else (elemWord s s.hpBuf.toNat s.hpIdx.toNat, { s with hpIdx := s.hpIdx + 1 })

/-- `HostPortWrite(v)` (R71). -/
def portWrite (v : Word) (s : State) : State :=
  if s.status.busy then setBusyViol s
  else if ¬ portInRange s then setHpErr s
  else { s with
    mem := s.mem.store (elemAddr s.hpBuf.toNat s.hpIdx.toNat) v
    hpIdx := s.hpIdx + 1 }

/-! ### The register block -/

/-- The register at a byte offset of the block; offsets 0x40 to 0xFC are reserved (R21, R45). -/
def regAt (off : Nat) : Option Reg :=
  match off with
  | 0x00 => some .id
  | 0x04 => some .caps
  | 0x08 => some .capsDim
  | 0x0C => some .imgDim
  | 0x10 => some .cmdArg
  | 0x14 => some .cmd
  | 0x18 => some .status
  | 0x1C => some .irqEn
  | 0x20 => some .scanMinLo
  | 0x24 => some .scanMinHi
  | 0x28 => some .scanMaxLo
  | 0x2C => some .scanMaxHi
  | 0x30 => some .hpBuf
  | 0x34 => some .hpIdx
  | 0x38 => some .hpData
  | 0x3C => some .errInfo
  | _ => none

/-- `Reg[off]`, the value of a storage register; HP_DATA holds none (R22 to R39). -/
def regValue (s : State) : Reg → Word
  | .id => 0x50450001
  | .caps => BitVec.ofNat 32 Config.nbuf
  | .capsDim => BitVec.ofNat 32 (s.params.wmax * 2 ^ 16 + s.params.hmax)
  | .imgDim => s.imgDim
  | .cmdArg => s.cmdArg
  | .cmd => s.cmd
  | .status => s.status.toWord
  | .irqEn => s.irqEn.toWord
  | .scanMinLo => s.scanMin.extractLsb' 0 32
  | .scanMinHi => s.scanMin.extractLsb' 32 32
  | .scanMaxLo => s.scanMax.extractLsb' 0 32
  | .scanMaxHi => s.scanMax.extractLsb' 32 32
  | .hpBuf => s.hpBuf.setWidth 32
  | .hpIdx => s.hpIdx
  | .hpData => 0
  | .errInfo => s.errInfo

/-- `HostRead(off)` of an aligned 32-bit access (R66): only HP_DATA has a side effect. -/
def hostRead (off : Nat) (s : State) : Word × State :=
  match regAt off with
  | none => (0, s)
  | some .hpData => portRead s
  | some r => (regValue s r, s)

/-- A write of register `r`, dropped with BUSYVIOL while a command is in flight (R25 to R27, R67). -/
def unlessBusy (s : State) (write : State) : State := if s.status.busy then setBusyViol s else write

/-- A host write `v` to a register (R67). -/
def regWrite (r : Reg) (v : Word) (s : State) : State :=
  match r with
  | .id | .caps | .capsDim | .scanMinLo | .scanMinHi | .scanMaxLo | .scanMaxHi | .errInfo => s
  | .imgDim => unlessBusy s { s with imgDim := v }
  | .cmdArg => unlessBusy s { s with cmdArg := v }
  | .cmd => unlessBusy s (issue v s)
  | .status => { s with status := s.status.clearOnes v }
  | .irqEn => { s with irqEn := .ofWord v }
  | .hpBuf => { s with hpBuf := BitVec.ofNat 4 (bitField v 3 0) }
  | .hpIdx => { s with hpIdx := v }
  | .hpData => portWrite v s

/-- `HostWrite(off, v)` of an aligned 32-bit access (R67). -/
def hostWrite (off : Nat) (v : Word) (s : State) : State :=
  match regAt off with
  | none => s
  | some r => regWrite r v s

/-- The offset in the register block of a bus address, if the block holds it (R21, R60). -/
def blockOffset (p : Params) (addr : Nat) : Option Nat :=
  if p.engineBase ≤ addr ∧ addr < p.engineBase + 256 then some (addr - p.engineBase) else none

/-- A bus read of `size` bytes at byte address `addr`: the word the engine answers, if the access is to its block,
and the state after. An access that is not an aligned 32-bit one reads 0 and does nothing (R65); one outside the
block is not the engine's (R60, R74; notes/assumptions/6.md). -/
def busRead (addr size : Nat) (s : State) : Option Word × State :=
  match blockOffset s.params addr with
  | none => (none, s)
  | some off =>
    if size = 4 ∧ off % 4 = 0 then (some (hostRead off s).1, (hostRead off s).2) else (some 0, s)

/-- A bus write of byte lanes at byte address `addr`, as `busRead` (R64, R65, R67). -/
def busWrite (addr : Nat) (lanes : List Byte) (s : State) : State :=
  match blockOffset s.params addr, ofLanes lanes with
  | some off, some v => if off % 4 = 0 then hostWrite off v s else s
  | _, _ => s

end Sys2Proof.Machine
end

