-- ==== Sys2Proof/Machine/HostAgent.lean ====
section
/-! DEFINITION. The host agent's step, and the host statements of the spec's notation as programs of host operations
(spec/30_encoding.md R104 to R114, spec/44_system.md R236). -/

namespace Sys2Proof.Machine

/-- The host program goes on with `rest`, in the state an access left. -/
def hostGoesOn (rest : List HostOp) (s : State) : State := { s with host := { s.host with program := rest } }

/-- The value a read of the program returned is its result (R106). -/
def hostNotes (v : Option Word) (s : State) : State :=
  { s with host := { s.host with reads := s.host.reads ++ v.toList } }

/-- `waitok` met ERR = 1: the host program stops at this statement (R110). -/
def hostStops (s : State) : State := { s with host := { s.host with stopped := true } }

/-- The host performs one operation of its program (R76). `waitIdle` reads STATUS once and goes on only when BUSY
was 0 (R109); `stopIfErr` reads STATUS once and stops when ERR was 1 (R110). A host that has stopped or has nothing
left to do leaves the state alone. -/
def hostTurn (s : State) : State :=
  if s.host.stopped then s
  else match s.host.program with
    | [] => s
    | .read addr size :: rest => hostGoesOn rest (hostNotes (busRead addr size s).1 (busRead addr size s).2)
    | .write addr lanes :: rest => hostGoesOn rest (busWrite addr lanes s)
    | .waitIdle :: rest =>
      if bitAt (hostRead 0x18 s).1 0 then (hostRead 0x18 s).2 else hostGoesOn rest (hostRead 0x18 s).2
    | .stopIfErr :: rest =>
      if bitAt (hostRead 0x18 s).1 2 then hostStops (hostRead 0x18 s).2 else hostGoesOn rest (hostRead 0x18 s).2

/-! ### Host statements (R105 to R114), for an engine at `base` -/

/-- `wr OFF, V` (R106). -/
def stmtWr (base off : Nat) (v : Word) : List HostOp := [.write (base + off) (toLanes v)]

/-- `rd OFF` (R106). -/
def stmtRd (base off : Nat) : List HostOp := [.read (base + off) 4]

/-- `high<<16 | low`, the word of R106. R106 gives the operands no range: the OR is taken of the whole integers and the
register keeps its low 32 bits (DESIGN CHOICE, notes/assumptions/15.md). -/
def packHalves (high low : Nat) : Word := BitVec.ofNat 32 (high <<< 16 ||| low)

/-- `setdim H, W` (R106). -/
def stmtSetdim (base h w : Nat) : List HostOp := stmtWr base 0x0C (packHalves w h)

/-- `setarg ROW, COL` (R106). -/
def stmtSetarg (base row col : Nat) : List HostOp := stmtWr base 0x10 (packHalves col row)

/-- `irqen MASK` (R106). -/
def stmtIrqen (base : Nat) (mask : Word) : List HostOp := stmtWr base 0x1C mask

/-- `clear` (R106): clears DONE, ERR, BUSYVIOL and HPERR. -/
def stmtClear (base : Nat) : List HostOp := stmtWr base 0x18 0x306

/-- `.word 0xNNNNNNNN`: issue a word as it stands (R105). -/
def stmtWord (base : Nat) (w : Word) : List HostOp := stmtWr base 0x14 w

/-- A command mnemonic as a host statement: issue its word (R105). -/
def stmtCommand (base : Nat) (i : Instr) : List HostOp := stmtWord base (encode i)

/-- `load bN, K, v0, v1, …` (R107). An N or K of 2^32 or more keeps its low 32 bits
(DESIGN CHOICE, notes/assumptions/15.md), and so does a value outside −2^31 to 2^31 − 1, for which R8 defines no `u32`
(DESIGN CHOICE, notes/assumptions/16.md). -/
def stmtLoad (base n k : Nat) (vs : List Int) : List HostOp :=
  stmtWr base 0x30 (BitVec.ofNat 32 n) ++ stmtWr base 0x34 (BitVec.ofNat 32 k)
    ++ vs.flatMap fun v => stmtWr base 0x38 (u32 v)

/-- `readout bN, K, n` (R108), N and K as for `load`. -/
def stmtReadout (base b k n : Nat) : List HostOp :=
  stmtWr base 0x30 (BitVec.ofNat 32 b) ++ stmtWr base 0x34 (BitVec.ofNat 32 k)
    ++ (List.replicate n (stmtRd base 0x38)).flatten

/-- `wait` (R109). -/
def stmtWait : List HostOp := [.waitIdle]

/-- `waitok` (R110). -/
def stmtWaitok : List HostOp := stmtWait ++ [.stopIfErr]

/-- `run .word 0xNNNNNNNN` (R111), the command statement `.word` of R105: any word, also a reserved or illegal one. -/
def stmtRunWord (base : Nat) (w : Word) : List HostOp := stmtWord base w ++ stmtWaitok

/-- `run CMD` (R111) for a command mnemonic: the same, with the word of the command (R105). -/
def stmtRun (base : Nat) (i : Instr) : List HostOp := stmtRunWord base (encode i)

/-- `edge bX, bY, bM, bA, bT1, bT2` (R112): the Edge Engine's sequencing is the host's (spec/00_scope.md R6).
R112's constraints on the buffers are the program's to meet (notes/assumptions/15.md). -/
def stmtEdge (base bX bY bM bA bT1 bT2 : Nat) : List HostOp :=
  stmtRun base (.convH bT1 bA) ++ stmtRun base (.convV bT2 bA) ++ stmtRun base (.magnorm bM bT1 bT2)
    ++ stmtRun base (.norm bX bT1) ++ stmtRun base (.norm bY bT2)

/-- `edgediag b45, b135, bA, bT1, bT2` (R113), its constraints as for `edge`. -/
def stmtEdgediag (base b45 b135 bA bT1 bT2 : Nat) : List HostOp :=
  stmtRun base (.convD45 bT1 bA) ++ stmtRun base (.convD135 bT2 bA)
    ++ stmtRun base (.norm b45 bT1) ++ stmtRun base (.norm b135 bT2)

/-- `pipeline` (R114). -/
def stmtPipeline (base : Nat) : List HostOp :=
  stmtRun base (.median 1 0) ++ stmtEdge base 2 3 4 1 2 3 ++ stmtEdgediag base 5 6 1 5 6

end Sys2Proof.Machine
end

