-- ==== Sys2Proof/Machine/Image.lean ====
section
/-! DEFINITION. The padded image, the window addressing law and the image-shaped output that every image command
shares (spec/40_padding_window.md R120, R122, R124; spec/20_memory.md R61, R63). -/

namespace Sys2Proof.Machine

/-- `P_a(i, j)`: the padded image of buffer `a`, 0 on the border (R120). -/
def paddedAt (s : State) (a i j : Nat) : Int :=
  if 1 ≤ i ∧ i ≤ s.imgH ∧ 1 ≤ j ∧ j ≤ s.imgW then elem s a ((i - 1) * s.imgW + (j - 1)) else 0

/-- `window(P_a, cr, cc)[i][j]`, the window addressing law (R122). -/
def windowAt (s : State) (a cr cc i j : Nat) : Int := paddedAt s a (cr - 1 + i) (cc - 1 + j)

/-- `w_{r,c}[i][j]`, the window of output pixel (r, c) (R124). -/
def pixelWindow (s : State) (a r c i j : Nat) : Int := windowAt s a (r + 1) (c + 1) i j

/-- A row-major `rows`×`cols` array as the list of its elements (R61). -/
def rowMajor (rows cols : Nat) (f : Nat → Nat → Int) : List Int :=
  (List.range (rows * cols)).map fun k => f (k / cols) (k % cols)

/-- An image-shaped output: element (r, c) at index r·W + c (R61, R126). -/
def imageOf (s : State) (f : Nat → Nat → Int) : List Int := rowMajor s.imgH s.imgW f

/-- The elements of an image-shaped source, index 0 to H·W − 1, whatever last wrote it (R63). -/
def sourceOf (s : State) (a : Nat) : List Int := (List.range (s.imgH * s.imgW)).map (elem s a)

end Sys2Proof.Machine
end

