-- ==== Sys2Proof/Machine/Correlator.lean ====
section
/-! DEFINITION. The correlator: CONV.H, CONV.V, CONV.D45 and CONV.D135 (spec/42_correlator.md). -/

namespace Sys2Proof.Machine

/-- The four fixed kernels, by name (R160). -/
inductive Kernel where
  | horizontal | vertical | diag45 | diag135
deriving DecidableEq, Repr

/-- The kernel constants, row-major, top-left element first (R160). -/
def kernelRows : Kernel → List (List Int)
  | .horizontal => [[1, 0, -1], [2, 0, -2], [1, 0, -1]]
  | .vertical => [[1, 2, 1], [0, 0, 0], [-1, -2, -1]]
  | .diag45 => [[0, 1, 2], [-1, 0, 1], [-2, -1, 0]]
  | .diag135 => [[-2, -1, 0], [-1, 0, 1], [0, 1, 2]]

/-- `K[i][j]` (R160). -/
def kernelAt (K : Kernel) (i j : Nat) : Int := ((kernelRows K).getD i []).getD j 0

/-- `F[i][j] = K[2−i][2−j]`, the kernel rotated by 180° (R161). -/
def flippedAt (K : Kernel) (i j : Nat) : Int := kernelAt K (2 - i) (2 - j)

/-- The exact sum of output pixel (r, c): Σ w_{r,c}[i][j] · F_K[i][j] (R162). -/
def convSum (K : Kernel) (s : State) (a r c : Nat) : Int :=
  (rowMajor 3 3 fun i j => pixelWindow s a r c i j * flippedAt K i j).sum

/-- Pass 1 of a convolution: every exact sum, nothing wrapped or clamped (R162). -/
def convOutput (K : Kernel) (s : State) (a : Nat) : List Int := imageOf s (convSum K s a)

/-- The value fits S32 (R162). -/
def fitsS32 (n : Int) : Bool := decide (-2 ^ 31 ≤ n ∧ n ≤ 2 ^ 31 - 1)

/-- The lowest index whose value does not fit S32, if any (R162, R268). -/
def firstOverflow (acc : List Int) : Option Nat := acc.findIdx? fun n => !fitsS32 n

/-- The common semantics of CONV with kernel K (R162): all sums, then the range check with the lowest index first,
then the commit. -/
def convolve (K : Kernel) (d a : Nat) (s : State) : State :=
  runChecked [d, a]
    (fun s => match firstOverflow (convOutput K s a) with
      | some k => commandFail .overflow k s
      | none => commandDone (writeBuffer d (convOutput K s a) s)) s

/-- CONV.H (R163). -/
def execConvH (d a : Nat) (s : State) : Host.Outcome State Fault Refusal := .next (convolve .horizontal d a s)

/-- CONV.V (R164). -/
def execConvV (d a : Nat) (s : State) : Host.Outcome State Fault Refusal := .next (convolve .vertical d a s)

/-- CONV.D45 (R165). -/
def execConvD45 (d a : Nat) (s : State) : Host.Outcome State Fault Refusal := .next (convolve .diag45 d a s)

/-- CONV.D135 (R166). -/
def execConvD135 (d a : Nat) (s : State) : Host.Outcome State Fault Refusal := .next (convolve .diag135 d a s)

end Sys2Proof.Machine
end

