-- ==== Sys2Proof/Machine/Float64.lean ====
section
/-! DEFINITION. The binary64 values and operations that MAGNORM uses (spec/00_scope.md R10): `f64`, `f64_sqrt`,
`fix52`, `f64_bits` and the order. IEEE 754's definitions are general knowledge, as R10 says
(spec/93_implementation_defined.md G1; PRESUMED, notes/assumptions/10.md). -/

namespace Sys2Proof.Machine

/-- A binary64 value that is 0 or at least 1, the only ones MAGNORM forms (R205): `sig · 2^(exp − 52)`, where
either `sig = 0` and `exp = 0`, or 2^52 ≤ sig < 2^53. -/
structure F64 where
  /-- the significand, hidden bit included -/
  sig : Nat
  /-- the unbiased exponent -/
  exp : Nat
deriving DecidableEq, Repr

/-- The value is in the form `F64` describes: zero, or a significand of 53 bits. -/
abbrev F64.normal (x : F64) : Prop := (x.sig = 0 ∧ x.exp = 0) ∨ (2 ^ 52 ≤ x.sig ∧ x.sig < 2 ^ 53)

/-- `n / 2^k` rounded to the nearest integer, ties to the even one (R10). -/
def roundShift (n k : Nat) : Nat :=
  if n % 2 ^ k * 2 > 2 ^ k ∨ (n % 2 ^ k * 2 = 2 ^ k ∧ n / 2 ^ k % 2 = 1) then n / 2 ^ k + 1 else n / 2 ^ k

/-- `f64(n)`: the integer converted to binary64, rounded to nearest, ties to even (R10). A significand that rounds
up to 2^53 takes the next exponent. -/
def f64 (n : Nat) : F64 :=
  if n = 0 then { sig := 0, exp := 0 }
  else if n.log2 ≤ 52 then { sig := n * 2 ^ (52 - n.log2), exp := n.log2 }
  else if roundShift n (n.log2 - 52) = 2 ^ 53 then { sig := 2 ^ 52, exp := n.log2 + 1 }
  else { sig := roundShift n (n.log2 - 52), exp := n.log2 }

/-- The greatest `r` of the form `r₀ + m` with `m < 2^bits` and `r² ≤ n`, found from the highest bit down. -/
def isqrtFrom (n : Nat) : Nat → Nat → Nat
  | 0, r => r
  | bits + 1, r => if (r + 2 ^ bits) * (r + 2 ^ bits) ≤ n then isqrtFrom n bits (r + 2 ^ bits) else isqrtFrom n bits r

/-- The integer square root of `n < 2^106`. -/
def isqrt (n : Nat) : Nat := isqrtFrom n 53 0

/-- The square root of `n < 2^106`, rounded to the nearest integer. It never lies halfway between two. -/
def nearestSqrt (n : Nat) : Nat := if n > isqrt n * isqrt n + isqrt n then isqrt n + 1 else isqrt n

/-- The radicand that makes the square root of `x` a 53-bit significand: sqrt(x) is
`sqrt (sqrtRadicand x) · 2^(exp/2 − 52)`. -/
def sqrtRadicand (x : F64) : Nat := x.sig * 2 ^ (52 + x.exp % 2)

/-- `f64_sqrt(x)`, rounded to nearest, ties to even (R10; a tie cannot occur). -/
def f64Sqrt (x : F64) : F64 :=
  if x.sig = 0 then { sig := 0, exp := 0 } else { sig := nearestSqrt (sqrtRadicand x), exp := x.exp / 2 }

/-- `fix52(x)`: the integer `x · 2^52` (R10). -/
def fix52 (x : F64) : Nat := x.sig * 2 ^ x.exp

/-- `f64_bits(x)`: the 64-bit IEEE encoding: sign 0, exponent biased by 1023, significand without its hidden bit
(R10). -/
def f64Bits (x : F64) : BitVec 64 :=
  if x.sig = 0 then 0 else BitVec.ofNat 64 ((x.exp + 1023) * 2 ^ 52 + (x.sig - 2 ^ 52))

/-- The smaller of two values in the IEEE order, which on these values is the order of `fix52` (R10). -/
def f64Min (x y : F64) : F64 := if fix52 y < fix52 x then y else x

/-- The larger of two values in the IEEE order. -/
def f64Max (x y : F64) : F64 := if fix52 x < fix52 y then y else x

end Sys2Proof.Machine
end

