-- ==== Sys2Proof/Machine/Normalizer.lean ====
section
/-! DEFINITION. The dynamic normalizer and the gradient magnitude combiner: NORM and MAGNORM
(spec/43_normalizer.md). -/

namespace Sys2Proof.Machine

/-- `floor_div(n, d)` for d > 0: the greatest q with q·d ≤ n (spec/00_scope.md R9). Lean's integer division rounds
down when the divisor is positive. -/
def floorDiv (n d : Int) : Int := n / d

/-- Pass 2 for one element: 0 when the input is degenerate (R193, R198), else floor(255·(x − mn)/(mx − mn))
(R191, R197). -/
def rescale (mn mx x : Int) : Int := if mn = mx then 0 else floorDiv (255 * (x - mn)) (mx - mn)

/-- The least element of an array (pass 1, R190); 0 for the empty array, which no command scans. -/
def leastOf : List Int → Int
  | [] => 0
  | x :: xs => xs.foldl min x

/-- The greatest element of an array (pass 1, R190). -/
def greatestOf : List Int → Int
  | [] => 0
  | x :: xs => xs.foldl max x

/-- SCAN_MIN <- lo; SCAN_MAX <- hi (R195, R199). -/
def setScan (lo hi : BitVec 64) (s : State) : State := { s with scanMin := lo, scanMax := hi }

/-- STATUS.DEGEN <- 1 when the input is degenerate; else it stays as issue left it (R193, R198). -/
def markDegen (degenerate : Bool) (s : State) : State :=
  { s with status := { s.status with degen := s.status.degen || degenerate } }

/-- The end of a normalization: the buffer, DEGEN and the SCAN registers are written together, then `done()`. -/
def commitNormalized (d : Nat) (out : List Int) (degenerate : Bool) (lo hi : BitVec 64) (s : State) : State :=
  commandDone (setScan lo hi (markDegen degenerate (writeBuffer d out s)))

/-- NORM's result from its input array (R191, R195). -/
def normalize (d : Nat) (x : List Int) (s : State) : State :=
  commitNormalized d (x.map (rescale (leastOf x) (greatestOf x))) (decide (leastOf x = greatestOf x))
    (BitVec.ofInt 64 (leastOf x)) (BitVec.ofInt 64 (greatestOf x)) s

/-- NORM (R191). -/
def execNorm (d a : Nat) (s : State) : Host.Outcome State Fault Refusal :=
  .next (runChecked [d, a] (fun s => normalize d (sourceOf s a) s) s)

/-- The sum of squares of element `k`, an exact integer (R196). -/
def sumOfSquares (s : State) (a b k : Nat) : Nat := (elem s a k * elem s a k + elem s b k * elem s b k).toNat

/-- The gradient magnitude of element `k` (R196). -/
def magnitudeAt (s : State) (a b k : Nat) : F64 := f64Sqrt (f64 (sumOfSquares s a b k))

/-- The magnitude array of raw gradients `a` (X) and `b` (Y) (R196). -/
def magnitudesOf (s : State) (a b : Nat) : List F64 := (List.range (s.imgH * s.imgW)).map (magnitudeAt s a b)

/-- The least magnitude, in the binary64 order (pass 1, R190). -/
def leastF64 : List F64 → F64
  | [] => { sig := 0, exp := 0 }
  | x :: xs => xs.foldl f64Min x

/-- The greatest magnitude, in the binary64 order (pass 1, R190). -/
def greatestF64 : List F64 → F64
  | [] => { sig := 0, exp := 0 }
  | x :: xs => xs.foldl f64Max x

/-- MAGNORM's result from its magnitude array: NORM's exact formula on the integers `fix52(m)` (R197, R204). -/
def normalizeMagnitudes (d : Nat) (m : List F64) (s : State) : State :=
  commitNormalized d
    (m.map fun x => rescale (fix52 (leastF64 m)) (fix52 (greatestF64 m)) (fix52 x))
    (decide (fix52 (leastF64 m) = fix52 (greatestF64 m)))
    (f64Bits (leastF64 m)) (f64Bits (greatestF64 m)) s

/-- MAGNORM (R197). -/
def execMagnorm (d a b : Nat) (s : State) : Host.Outcome State Fault Refusal :=
  .next (runChecked [d, a, b] (fun s => normalizeMagnitudes d (magnitudesOf s a b) s) s)

end Sys2Proof.Machine
end

