-- ==== Sys2Proof/Machine/Padding.lean ====
section
/-! DEFINITION. The padding unit and the window extractor: PAD and WINDOW (spec/40_padding_window.md), and beside
them the line-buffer scan that R125 gives for information; no command is defined by it. -/

namespace Sys2Proof.Machine

/-- The padded array (H+2)×(W+2) of buffer `a`, row-major with stride W+2 (R61, R120). -/
def padOutput (s : State) (a : Nat) : List Int := rowMajor (s.imgH + 2) (s.imgW + 2) (paddedAt s a)

/-- PAD (R121). -/
def execPad (d a : Nat) (s : State) : Host.Outcome State Fault Refusal :=
  .next (runChecked [d, a] (fun s => commandDone (writeBuffer d (padOutput s a) s)) s)

/-- The 3×3 window of buffer `a` at the centre CMD_ARG names (R123). -/
def windowOutput (s : State) (a : Nat) : List Int := rowMajor 3 3 (windowAt s a s.crow s.ccol)

/-- WINDOW (R123): a centre outside [1, H] × [1, W] fails with BAD_ARG (R267), after the common checks (R270). -/
def execWindow (d a : Nat) (s : State) : Host.Outcome State Fault Refusal :=
  .next (runChecked [d, a]
    (fun s => if validCentre s then commandDone (writeBuffer d (windowOutput s a) s) else commandFail .badArg 0 s) s)

/-! ### The line-buffer realization (R125, informative) -/

/-- One column of three rows, topmost first. -/
abbrev Column := Int × Int × Int

/-- The scan's registers: two line buffers of W+2 entries, the two older window columns, and the windows emitted so
far, oldest first. (The third column is the one just read.) -/
structure LineScan where
  /-- LB0, the row above the one being read -/
  lb0 : List Int
  /-- LB1, the row above LB0 -/
  lb1 : List Int
  /-- col1, which becomes col0 -/
  older : Column
  /-- col2, which becomes col1 -/
  newer : Column
  /-- the emitted windows, each as its nine values row-major -/
  emitted : List (List Int)
deriving DecidableEq, Repr

/-- Three columns side by side as a row-major 3×3 window: `w[a][b] = col_b[a]`. -/
def columnsToWindow (c0 c1 c2 : Column) : List Int :=
  [c0.1, c1.1, c2.1, c0.2.1, c1.2.1, c2.2.1, c0.2.2, c1.2.2, c2.2.2]

/-- One cell (pr, pc) of the raster scan over the padded image `P` (R125). -/
def lineScanCell (P : Nat → Nat → Int) (pr pc : Nat) (ls : LineScan) : LineScan :=
  let p := P pr pc
  let new : Column := (ls.lb1.getD pc 0, ls.lb0.getD pc 0, p)
  { lb0 := ls.lb0.set pc p
    lb1 := ls.lb1.set pc (ls.lb0.getD pc 0)
    older := ls.newer
    newer := new
    emitted := if 2 ≤ pr ∧ 2 ≤ pc then ls.emitted ++ [columnsToWindow ls.older ls.newer new] else ls.emitted }

/-- The whole raster scan of a (rows)×(cols) padded image, cell by cell in row-major order (R125). -/
def lineScan (P : Nat → Nat → Int) (rows cols : Nat) (ls : LineScan) : LineScan :=
  (List.range (rows * cols)).foldl (fun ls k => lineScanCell P (k / cols) (k % cols) ls) ls

end Sys2Proof.Machine
end

