-- ==== Sys2Proof/Machine/RankFilter.lean ====
section
/-! DEFINITION. The rank filter: MEDIAN (spec/41_rank_filter.md), and beside it the comparator network that R143
gives for information; no command is defined by it. -/

namespace Sys2Proof.Machine

/-- `kth_smallest(V, k)`: the element at index k of V sorted ascending, repeats kept (spec/00_scope.md R13). -/
def kthSmallest (values : List Int) (k : Nat) : Int := (values.insertionSort (· ≤ ·)).getD k 0

/-- The weight stage: nine weights, hardwired to 1 (R140). -/
def rankWeight (_i _j : Nat) : Int := 1

/-- The nine weighted members of the window of output pixel (r, c) (R140, R141). -/
def weightedWindow (s : State) (a r c : Nat) : List Int :=
  rowMajor 3 3 fun i j => pixelWindow s a r c i j * rankWeight i j

/-- The median image of buffer `a`: the 5th smallest of each window (R141). -/
def medianOutput (s : State) (a : Nat) : List Int :=
  imageOf s fun r c => kthSmallest (weightedWindow s a r c) 4

/-- MEDIAN (R141). -/
def execMedian (d a : Nat) (s : State) : Host.Outcome State Fault Refusal :=
  .next (runChecked [d, a] (fun s => commandDone (writeBuffer d (medianOutput s a) s)) s)

/-! ### The median selector network (R143, informative) -/

/-- `cs(i, j)`: leave the smaller of `p[i]`, `p[j]` in `p[i]` and the larger in `p[j]`. -/
def compareExchange (p : List Int) (ij : Nat × Nat) : List Int :=
  (p.set ij.1 (min (p.getD ij.1 0) (p.getD ij.2 0))).set ij.2 (max (p.getD ij.1 0) (p.getD ij.2 0))

/-- The 19 comparators of the network, in order (R143). -/
def medianComparators : List (Nat × Nat) :=
  [(1, 2), (4, 5), (7, 8), (0, 1), (3, 4), (6, 7), (1, 2), (4, 5), (7, 8),
   (0, 3), (5, 8), (4, 7), (3, 6), (1, 4), (2, 5), (4, 7), (4, 2), (6, 4), (4, 2)]

/-- The network's output, `p[4]` after every comparator (R143). -/
def medianNetwork (p : List Int) : Int := (medianComparators.foldl compareExchange p).getD 4 0

end Sys2Proof.Machine
end

