-- ==== Sys2Proof/Machine/System.lean ====
section
/-! DEFINITION. System operations: NOP (spec/44_system.md R234). -/

namespace Sys2Proof.Machine

/-- NOP (R234): `done()` and nothing else; no buffer, IMG_DIM or CMD_ARG is read. -/
def execNop (s : State) : Host.Outcome State Fault Refusal := .next (commandDone s)

end Sys2Proof.Machine
end

