-- ==== Sys2Proof/Machine/Dispatch.lean ====
section
/-! DEFINITION. The meaning of every command: one arm per row of spec/opcode_table.json (spec/44_system.md R232). -/

namespace Sys2Proof.Machine

def exec (i : Instr) (s : State) : Host.Outcome State Fault Refusal :=
  match i with
  | .nop => Sys2Proof.Machine.execNop s
  | .pad d a => Sys2Proof.Machine.execPad d a s
  | .median d a => Sys2Proof.Machine.execMedian d a s
  | .convH d a => Sys2Proof.Machine.execConvH d a s
  | .convV d a => Sys2Proof.Machine.execConvV d a s
  | .convD45 d a => Sys2Proof.Machine.execConvD45 d a s
  | .convD135 d a => Sys2Proof.Machine.execConvD135 d a s
  | .norm d a => Sys2Proof.Machine.execNorm d a s
  | .magnorm d a b => Sys2Proof.Machine.execMagnorm d a b s
  | .window d a => Sys2Proof.Machine.execWindow d a s

end Sys2Proof.Machine
end

