-- ==== Sys2Proof/Machine/Lifecycle.lean ====
section
/-! DEFINITION. The engine's only step: the completion of the command in flight (spec/44_system.md R230, R232). -/

namespace Sys2Proof.Machine

/-- `Complete()` (R232): decode the word in CMD, fail on an ill-formed one (R263, R264), else run the command. -/
def complete (s : State) : Host.Outcome State Fault Refusal :=
  match decode s.cmd with
  | .illegalOp => .next (commandFail .illegalOp 0 s)
  | .shapeMismatch => .next (commandFail .shapeMismatch 0 s)
  | .instr i => exec i s

/-- The engine's turn: `Complete()` is enabled exactly when BUSY = 1; an idle engine keeps every register and
buffer (R230, spec/60_exceptions.md R282). -/
def engineTurn (s : State) : Host.Outcome State Fault Refusal :=
  if s.status.busy then complete s else .next s

end Sys2Proof.Machine
end

