-- ==== Sys2Proof/Machine/Step.lean ====
section
/-! DEFINITION. One step of the machine: one atomic step of one agent (spec/20_memory.md R76, spec/44_system.md
R230), and how a command is placed where the next step runs it. -/

namespace Sys2Proof.Machine

/-- One step of the agent that `turns` names next. Where nothing is decided the engine moves while a command is in
flight, so that every issued command completes (R239), and the host moves otherwise (notes/assumptions/3.md). -/
def step (s : State) : Host.Outcome State Fault Refusal :=
  match s.turns with
  | [] => if s.status.busy then engineTurn s else .next (hostTurn s)
  | .host :: later => .next (hostTurn { s with turns := later })
  | .engine :: later => engineTurn { s with turns := later }
  | .reset :: later => .next (resetEngine { s with turns := later })

/-- The engine fetches nothing: a command is the word the host writes to CMD (R42, R80). This state has the word
issued, as that write leaves it (R231), and the engine's completion is the very next step
(notes/assumptions/5.md). -/
def State.withFetchWord (s : State) (nbits w : Nat) : State :=
  { issue (BitVec.ofNat 32 (w % 2 ^ nbits)) s with turns := [] }

end Sys2Proof.Machine
end

