-- ==== Sys2Proof/Safety.lean ====
section
/-! DEFINITION. What holds of the engine between any two steps: the terms in which the model's invariants are
claimed. Nothing here is assumed by the step. -/

namespace Sys2Proof.Machine

/-- The frame buffers hold nothing outside their NBUF·CAP elements, each once (spec/10_state.md R40,
spec/20_memory.md R82). -/
def memorySafe (s : State) : Prop :=
  Memory.wf s.mem ∧ ∀ cell ∈ s.mem, cell.1 < capOf s.params * Config.nbuf

/-- What STATUS and ERR_INFO say of one another, whatever the host and the engine have done:
while a command is in flight the last outcome is cleared (R231); ERR has a cause in ERRCODE (R262); DEGEN and an
error exclude one another (R32, R262); only an OVERFLOW leaves an ERR_INFO (R39). -/
def outcomeSafe (s : State) : Prop :=
  (s.status.busy = true →
    s.status.done = false ∧ s.status.err = false ∧ s.status.degen = false ∧ s.status.errCode = .none) ∧
  (s.status.err = true → s.status.errCode ≠ .none) ∧
  (s.status.degen = true → s.status.errCode = .none) ∧
  (s.status.errCode ≠ .overflow → s.errInfo = 0)

/-- The model's invariant: legal parameters, memory in canonical form inside the frame buffers, a coherent
outcome. -/
def EngineInv (s : State) : Prop := s.params.wf ∧ memorySafe s ∧ outcomeSafe s

/-- The state in which a command stands at its completion step: in flight, its outcome cleared at issue (R231). -/
def InFlight (s : State) : Prop :=
  s.status.busy = true ∧ s.status.done = false ∧ s.status.err = false ∧ s.status.degen = false ∧
    s.status.errCode = .none ∧ s.errInfo = 0

end Sys2Proof.Machine
end

