-- ==== Sys2Proof/Certificates/Slice0/Obligations.lean ====
section
/-! DEFINITION. The statements about the model, each from the numbered rules of spec/. First the terms they are
written in, then one definition per statement. -/

open Sys2Proof Sys2Proof.Machine

namespace Sys2Proof.Claims

/-- `I(y, x)`: the element of the source image in buffer `a`, 0 outside the image (spec/42_correlator.md, head). -/
def pixel (s : State) (a : Nat) (y x : Int) : Int :=
  if 0 ≤ y ∧ y < s.imgH ∧ 0 ≤ x ∧ x < s.imgW then elem s a (y * s.imgW + x).toNat else 0

/-- The state a command that fails with `code` and `info` leaves (R262). -/
def failed (code : ErrCode) (info : Word) (s : State) : State :=
  { s with status := { s.status with errCode := code, err := true, done := true, busy := false }, errInfo := info }

/-- `t` is `s` with its command ended by `done()` (R233), the frame buffers aside. -/
def endedWell (s t : State) : Prop :=
  t = { s with status := { s.status with done := true, busy := false }, mem := t.mem }

/-- `t` is `s` with a normalization ended by `done()` (R191, R197): DEGEN and SCAN written, the frame buffers aside. -/
def normalizedWell (s t : State) (degenerate : Bool) (lo hi : BitVec 64) : Prop :=
  t = { s with
    status := { s.status with done := true, busy := false, degen := s.status.degen || degenerate }
    scanMin := lo, scanMax := hi, mem := t.mem }

/-- No element of a frame buffer but elements 0 to n − 1 of buffer `d` differs between `s` and `t`. -/
def writesOnly (s t : State) (d n : Nat) : Prop :=
  ∀ b k, b < Config.nbuf → (b = d → n ≤ k) → elemWord t b k = elemWord s b k

/-- The number of pixels, H·W. -/
def pixels (s : State) : Nat := s.imgH * s.imgW

/-- How many elements of its destination a command's layout occupies (R61, R126). -/
def layoutSize (i : Instr) (s : State) : Nat :=
  match i with
  | .nop => 0
  | .pad _ _ => (s.imgH + 2) * (s.imgW + 2)
  | .window _ _ => 9
  | .median _ _ | .convH _ _ | .convV _ _ | .convD45 _ _ | .convD135 _ _ | .norm _ _ | .magnorm _ _ _ => pixels s

/-- The destination of a command, none for NOP. -/
def destination (i : Instr) : Option Nat := i.buffers.head?

/-- The word is illegal by R99: RSVD nonzero, an OP of 7 to 15, or a field that R95 marks "must be 0" nonzero. -/
def illegalWord (w : Word) : Prop :=
  rsvdField w ≠ 0 ∨ 7 ≤ opField w ∨
  (opField w = 0 ∧ (kselField w ≠ 0 ∨ dstField w ≠ 0 ∨ srcaField w ≠ 0 ∨ srcbField w ≠ 0)) ∨
  (opField w ∈ [1, 2, 4, 6] ∧ (kselField w ≠ 0 ∨ srcbField w ≠ 0)) ∨
  (opField w = 3 ∧ srcbField w ≠ 0) ∨
  (opField w = 5 ∧ kselField w ≠ 0)

/-- The engine moves next, and `later` are the turns after it. -/
def engineNext (s : State) (later : List Turn) : Prop :=
  s.status.busy = true ∧ (s.turns = .engine :: later ∨ (s.turns = [] ∧ later = []))

/-- The host moves next, and `later` are the turns after it. -/
def hostNext (s : State) (later : List Turn) : Prop :=
  s.turns = .host :: later ∨ (s.turns = [] ∧ s.status.busy = false ∧ later = [])

/-- The gradient of pixel (y, x) as R163 to R166 expand it, by kernel. -/
def kernelGradient (K : Kernel) (s : State) (a : Nat) (y x : Int) : Int :=
  match K with
  | .horizontal =>
    (pixel s a (y - 1) (x + 1) + 2 * pixel s a y (x + 1) + pixel s a (y + 1) (x + 1))
      - (pixel s a (y - 1) (x - 1) + 2 * pixel s a y (x - 1) + pixel s a (y + 1) (x - 1))
  | .vertical =>
    (pixel s a (y + 1) (x - 1) + 2 * pixel s a (y + 1) x + pixel s a (y + 1) (x + 1))
      - (pixel s a (y - 1) (x - 1) + 2 * pixel s a (y - 1) x + pixel s a (y - 1) (x + 1))
  | .diag45 =>
    (pixel s a y (x - 1) + 2 * pixel s a (y + 1) (x - 1) + pixel s a (y + 1) x)
      - (pixel s a (y - 1) x + 2 * pixel s a (y - 1) (x + 1) + pixel s a y (x + 1))
  | .diag135 =>
    (2 * pixel s a (y - 1) (x - 1) + pixel s a (y - 1) x + pixel s a y (x - 1))
      - (pixel s a y (x + 1) + pixel s a (y + 1) x + 2 * pixel s a (y + 1) (x + 1))

/-- The gradient of output index k, row-major. -/
def gradientAt (K : Kernel) (s : State) (a k : Nat) : Int :=
  kernelGradient K s a (k / s.imgW : Nat) (k % s.imgW : Nat)

/-- The command that convolves with a kernel (R97). -/
def convCommand (K : Kernel) (d a : Nat) : Instr :=
  match K with
  | .horizontal => .convH d a
  | .vertical => .convV d a
  | .diag45 => .convD45 d a
  | .diag135 => .convD135 d a

/-- The integer is an S32 value. -/
def isS32 (n : Int) : Prop := -2 ^ 31 ≤ n ∧ n ≤ 2 ^ 31 - 1

/-- What CONV with kernel K does when no sum overflows (R162): the gradient of every pixel, nothing else. -/
def convolvesWell (K : Kernel) : Prop :=
  ∀ s d a, d < Config.nbuf → a < Config.nbuf → validDims s → (∀ k < pixels s, isS32 (gradientAt K s a k)) →
    ∃ t, exec (convCommand K d a) s = .next t ∧ endedWell s t ∧ writesOnly s t d (pixels s) ∧
      ∀ y x : Nat, y < s.imgH → x < s.imgW → elem t d (y * s.imgW + x) = kernelGradient K s a y x

/-- The nine members of the window of pixel (y, x): its 3×3 neighbourhood, padding zeros included. -/
def neighbourhood (s : State) (a : Nat) (y x : Int) : List Int :=
  [pixel s a (y - 1) (x - 1), pixel s a (y - 1) x, pixel s a (y - 1) (x + 1),
   pixel s a y (x - 1), pixel s a y x, pixel s a y (x + 1),
   pixel s a (y + 1) (x - 1), pixel s a (y + 1) x, pixel s a (y + 1) (x + 1)]

/-- `m` is the least of x[0], …, x[n−1]. -/
def isLeast (n : Nat) (x : Nat → Int) (m : Int) : Prop := (∃ k < n, x k = m) ∧ ∀ k < n, m ≤ x k

/-- `m` is the greatest of x[0], …, x[n−1]. -/
def isGreatest (n : Nat) (x : Nat → Int) (m : Int) : Prop := (∃ k < n, x k = m) ∧ ∀ k < n, x k ≤ m

/-- `q` is floor(n/d) for d > 0: the greatest integer with q·d ≤ n (R9). -/
def isFloorDiv (n d q : Int) : Prop := q * d ≤ n ∧ n < (q + 1) * d

/-- The magnitude of element k as the integer fix52 (R196). -/
def magnitude (s : State) (a b k : Nat) : Int := fix52 (magnitudeAt s a b k)

/-- The binary64 value with these bits, sign 0 and exponent at least 0, or +0, on the fix52 scale (R10). -/
def valueOfBits (x : BitVec 64) : Int :=
  if x.toNat = 0 then 0 else (2 ^ 52 + x.toNat % 2 ^ 52) * 2 ^ (x.toNat / 2 ^ 52 - 1023)

end Sys2Proof.Claims

open Sys2Proof.Claims

/-! ### The encoding -/

/-- Every command that can be written down is read back from its word: no operand bit is lost (R95, R98, R105). -/
def Obligations.EncodedCommandsDecodeBack : Prop :=
  ∀ i : Instr, i.wf = true → decode (encode i) = .instr i

/-- A word that decodes to a command is that command's one encoding, and the command is well formed (R95, R98). -/
def Obligations.EachCommandHasOneWord : Prop :=
  ∀ (w : Word) (i : Instr), decode w = .instr i → i.wf = true ∧ encode i = w

/-- R263: an illegal word, and no other, completes with ILLEGAL_OP and info 0. -/
def Obligations.IllegalWordsFailWithIllegalOp : Prop :=
  (∀ w, decode w = .illegalOp ↔ illegalWord w) ∧
  ∀ s later, engineNext s later → illegalWord s.cmd → step s = .next (failed .illegalOp 0 { s with turns := later })

/-- R264: CONV with SRCB = 0, RSVD = 0 and KSEL 4 to 15 completes with SHAPE_MISMATCH and info 0. -/
def Obligations.UnknownKernelsFailWithShapeMismatch : Prop :=
  (∀ w, decode w = .shapeMismatch ↔
    opField w = 3 ∧ srcbField w = 0 ∧ rsvdField w = 0 ∧ 4 ≤ kselField w ∧ kselField w ≤ 15) ∧
  ∀ s later, engineNext s later → decode s.cmd = .shapeMismatch →
    step s = .next (failed .shapeMismatch 0 { s with turns := later })

/-- The words R115 lists decode as it says. -/
def Obligations.ListedWordsDecodeAsListed : Prop :=
  decode 0x00000000 = .instr .nop ∧ decode 0x00000101 = .instr (.pad 1 0) ∧
  decode 0x00000102 = .instr (.median 1 0) ∧ decode 0x00001203 = .instr (.convH 2 1) ∧
  decode 0x00001313 = .instr (.convV 3 1) ∧ decode 0x00001523 = .instr (.convD45 5 1) ∧
  decode 0x00001633 = .instr (.convD135 6 1) ∧ decode 0x00002204 = .instr (.norm 2 2) ∧
  decode 0x00032405 = .instr (.magnorm 4 2 3) ∧ decode 0x00000706 = .instr (.window 7 0) ∧
  decode 0x00000043 = .shapeMismatch ∧ decode 0x00000007 = .illegalOp ∧ decode 0x00010102 = .illegalOp ∧
  decode 0x00000902 = .instr (.median 9 0)

/-! ### Reset, invariant, steps -/

/-- R301: what the host reads after reset, for every engine R7 allows; no command in flight and IRQ 0. The last clause,
that every element of every frame buffer reads as the free value `Config.unwritten`, is the model's choice of how an
unspecified element is represented (DESIGN CHOICE, notes/assumptions/2.md). -/
def Obligations.ResetLeavesTheListedValues : Prop :=
  ∀ p : Params, p.wf →
    (hostRead 0x00 (.resetWith p)).1 = 0x50450001 ∧ (hostRead 0x04 (.resetWith p)).1 = 8 ∧
    bitField (hostRead 0x08 (.resetWith p)).1 15 0 = p.hmax ∧
    bitField (hostRead 0x08 (.resetWith p)).1 31 16 = p.wmax ∧
    (∀ off ∈ [0x0C, 0x10, 0x14, 0x18, 0x1C, 0x20, 0x24, 0x28, 0x2C, 0x30, 0x34, 0x3C],
      (hostRead off (.resetWith p)).1 = 0) ∧
    (State.resetWith p).status.busy = false ∧ irq (.resetWith p) = false ∧
    ∀ b k, elemWord (.resetWith p) b k = Config.unwritten (State.resetWith p).epoch (elemAddr b k)

/-- R300, R303: a reset at any time, also with a command in flight, gives every register its reset value in one step,
completes nothing, and leaves no frame-buffer element specified. The host and the turns after it stay (the model's
choice, notes/assumptions/8.md). -/
def Obligations.ResetTurnAbandonsEverything : Prop :=
  ∀ s later, s.turns = .reset :: later →
    ∃ t, step s = .next t ∧
      t = { State.resetWith s.params with epoch := t.epoch, turns := later, host := s.host } ∧
      ∀ b k, elemWord t b k = Config.unwritten t.epoch (elemAddr b k)

/-- The invariant holds right after reset (R301; legal parameters, R7). -/
def Obligations.ResetSatisfiesInv : Prop := EngineInv State.reset

/-- Every step, of whichever agent, keeps the invariant: the frame buffers stay in canonical form inside their
NBUF·CAP elements, and STATUS and ERR_INFO stay coherent (R7, R28 to R33, R39, R40, R62, R231, R262). -/
def Obligations.EveryStepKeepsInv : Prop :=
  ∀ s t, EngineInv s → step s = .next t → EngineInv t

/-- R260: nothing traps. From every state every step answers a next state. -/
def Obligations.EveryStepGoesOn : Prop := ∀ s, ∃ t, step s = .next t

/-- The step runs the decoded command: at the engine's turn, with a command in flight whose word decodes to `i`, the
step is `exec i` of the state with that turn taken (R42, R230, R232). -/
def Obligations.EngineTurnRunsTheDecodedCommand : Prop :=
  ∀ s later i, engineNext s later → decode s.cmd = .instr i → step s = exec i { s with turns := later }

/-- A command's word written to CMD while idle is what the engine then runs, from the state the write left (R27,
R231, R232). -/
def Obligations.CommandWrittenToCmdRunsNext : Prop :=
  ∀ s i later, i.wf = true → s.status.busy = false → s.turns = .engine :: later →
    step (hostWrite 0x14 (encode i) s) = exec i { hostWrite 0x14 (encode i) s with turns := later }

/-- R230, R282: while no command is in flight the engine's turn changes nothing. -/
def Obligations.IdleEngineKeepsEverything : Prop :=
  ∀ s later, s.status.busy = false → s.turns = .engine :: later → step s = .next { s with turns := later }

/-! ### Issue, and accesses while a command is in flight -/

/-- R27 and R231: a write to CMD while idle issues the word; while BUSY it is dropped and sets BUSYVIOL; a read returns
the last accepted word. -/
def Obligations.CmdWriteIssuesOrIsDropped : Prop :=
  ∀ s w,
    (s.status.busy = false → hostWrite 0x14 w s = { s with
      cmd := w, errInfo := 0
      status := { busy := true, done := false, err := false, degen := false, errCode := .none,
                  busyViol := s.status.busyViol, hpErr := s.status.hpErr } }) ∧
    (s.status.busy = true → hostWrite 0x14 w s = { s with status := { s.status with busyViol := true } }) ∧
    hostRead 0x14 s = (s.cmd, s)

/-- R25, R26, R67: while idle a write to IMG_DIM or CMD_ARG stores the value in that register and changes nothing else;
while BUSY it is ignored and sets BUSYVIOL. A read returns the register at any time and changes nothing. H and CROW are
the low halves, W and CCOL the high halves. -/
def Obligations.OperandRegistersReadBackOrIgnore : Prop :=
  ∀ s v,
    (s.status.busy = false →
      hostWrite 0x0C v s = { s with imgDim := v } ∧ hostWrite 0x10 v s = { s with cmdArg := v }) ∧
    (s.status.busy = true → ∀ off ∈ [0x0C, 0x10],
      hostWrite off v s = { s with status := { s.status with busyViol := true } }) ∧
    hostRead 0x0C s = (s.imgDim, s) ∧ hostRead 0x10 s = (s.cmdArg, s) ∧
    s.imgH = s.imgDim.toNat % 2 ^ 16 ∧ s.imgW = s.imgDim.toNat / 2 ^ 16 ∧
    s.crow = s.cmdArg.toNat % 2 ^ 16 ∧ s.ccol = s.cmdArg.toNat / 2 ^ 16

/-- R73: a host-port access while BUSY is blocked. -/
def Obligations.HostPortIsBlockedWhileBusy : Prop :=
  ∀ s v, s.status.busy = true →
    hostRead 0x38 s = (0, { s with status := { s.status with busyViol := true } }) ∧
    hostWrite 0x38 v s = { s with status := { s.status with busyViol := true } }

/-- R77, R231: whatever the host does while a command is in flight, the command's inputs stay those at issue, and so do
its outcome fields and the results of earlier commands. -/
def Obligations.HostCannotTouchTheCommandInFlight : Prop :=
  ∀ s, s.status.busy = true →
    (hostTurn s).status.busy = true ∧ (hostTurn s).cmd = s.cmd ∧ (hostTurn s).imgDim = s.imgDim ∧
    (hostTurn s).cmdArg = s.cmdArg ∧ (hostTurn s).params = s.params ∧ (hostTurn s).epoch = s.epoch ∧
    (hostTurn s).mem = s.mem ∧ (hostTurn s).scanMin = s.scanMin ∧ (hostTurn s).scanMax = s.scanMax ∧
    (hostTurn s).errInfo = s.errInfo ∧ (hostTurn s).status.degen = s.status.degen ∧
    (hostTurn s).status.errCode = s.status.errCode

/-- R235, R239: the delay between issue and completion is invisible. However many operations the host performs before
the completion step, the buffers, SCAN, DEGEN, ERR, ERRCODE and ERR_INFO come out as if it had come at once. The host's
operations are those of the model's host agent (notes/assumptions/4.md). -/
def Obligations.CompletionDelayIsInvisible : Prop :=
  ∀ s n later, InFlight s → s.turns = List.replicate n .host ++ .engine :: later →
    ∃ t u, Host.Core.run Sys2Proof.core (n + 1) s = .next t ∧ step { s with turns := .engine :: later } = .next u ∧
      t.mem = u.mem ∧ t.epoch = u.epoch ∧ t.scanMin = u.scanMin ∧ t.scanMax = u.scanMax ∧
      t.errInfo = u.errInfo ∧ t.status.degen = u.status.degen ∧ t.status.err = u.status.err ∧
      t.status.errCode = u.status.errCode ∧ t.status.busy = u.status.busy ∧ t.turns = u.turns

/-! ### The register block and the host port -/

/-- R45: offsets 0x40 to 0xFC read 0 and ignore writes, with no flag set. -/
def Obligations.ReservedOffsetsReadZeroIgnoreWrites : Prop :=
  ∀ off s v, 0x40 ≤ off → off ≤ 0xFC → hostRead off s = (0, s) ∧ hostWrite off v s = s

/-- R22 to R24, R37, R39, R64, R66: what each read-only register reads, in every state: ID, CAPS and CAPS_DIM their
constants, the SCAN registers the low and the high halves of SCAN_MIN and SCAN_MAX, ERR_INFO its value. A read changes
nothing, and a write has no effect. -/
def Obligations.ReadOnlyRegistersIgnoreWrites : Prop :=
  (∀ s v, ∀ off ∈ [0x00, 0x04, 0x08, 0x20, 0x24, 0x28, 0x2C, 0x3C],
    hostWrite off v s = s ∧ (hostRead off s).2 = s) ∧
  ∀ s,
    (hostRead 0x00 s).1 = 0x50450001 ∧ (hostRead 0x04 s).1 = 8 ∧
    (s.params.wf → (hostRead 0x08 s).1.toNat = s.params.wmax * 2 ^ 16 + s.params.hmax) ∧
    (hostRead 0x20 s).1.toNat = s.scanMin.toNat % 2 ^ 32 ∧ (hostRead 0x24 s).1.toNat = s.scanMin.toNat / 2 ^ 32 ∧
    (hostRead 0x28 s).1.toNat = s.scanMax.toNat % 2 ^ 32 ∧ (hostRead 0x2C s).1.toNat = s.scanMax.toNat / 2 ^ 32 ∧
    (hostRead 0x3C s).1 = s.errInfo

/-- R36, R38: IRQ_EN keeps bits [2:0], HP_BUF bits [3:0] and HP_IDX all bits of a write, also while BUSY; no other
state changes. A read of one changes nothing (R66). -/
def Obligations.PlainRegistersKeepTheirWritableBits : Prop :=
  ∀ s v,
    ((hostRead 0x1C (hostWrite 0x1C v s)).1.toNat = v.toNat % 8 ∧
      hostWrite 0x1C v s = { s with irqEn := (hostWrite 0x1C v s).irqEn }) ∧
    ((hostRead 0x30 (hostWrite 0x30 v s)).1.toNat = v.toNat % 16 ∧
      hostWrite 0x30 v s = { s with hpBuf := (hostWrite 0x30 v s).hpBuf }) ∧
    ((hostRead 0x34 (hostWrite 0x34 v s)).1 = v ∧ hostWrite 0x34 v s = { s with hpIdx := v }) ∧
    ∀ off ∈ [0x1C, 0x30, 0x34], (hostRead off s).2 = s

/-- R65: an access of the block that is not a 32-bit access at a 4-byte-aligned offset is ignored: a read returns 0, a
write has no effect, no flag is set. -/
def Obligations.OddAccessesAreIgnored : Prop :=
  ∀ s off, off < 256 →
    (∀ size, size ≠ 4 ∨ off % 4 ≠ 0 → busRead (s.params.engineBase + off) size s = (some 0, s)) ∧
    (∀ lanes : List Byte, lanes.length ≠ 4 ∨ off % 4 ≠ 0 → busWrite (s.params.engineBase + off) lanes s = s)

/-- R60, R64: an aligned 32-bit access at ENGINE_BASE + off is the register access at off, the word's low byte at the
lowest address. R76, R106: at the host's turn the step makes the access at the head of the host's program, a read's word
is noted as its result, and the program goes on. R109, R110: `waitIdle` goes on once BUSY is 0, `stopIfErr` stops the
host when ERR is 1. A host that has stopped or has nothing left to do changes nothing. That the host is a list of
operations, and whose turn it is, are the model's choices (notes/assumptions/4.md and 3.md). -/
def Obligations.AlignedWordAccessesReachTheRegister : Prop :=
  (∀ s off v, off < 256 → off % 4 = 0 →
    busRead (s.params.engineBase + off) 4 s = (some (hostRead off s).1, (hostRead off s).2) ∧
    busWrite (s.params.engineBase + off)
      [v.extractLsb' 0 8, v.extractLsb' 8 8, v.extractLsb' 16 8, v.extractLsb' 24 8] s = hostWrite off v s) ∧
  ∀ s u later rest, hostNext s later → u = { s with turns := later } →
    ((s.host.stopped = true ∨ s.host.program = []) → step s = .next u) ∧
    (s.host.stopped = false →
      (∀ addr size, s.host.program = .read addr size :: rest →
        step s = .next { (busRead addr size u).2 with
          host := { program := rest, reads := s.host.reads ++ (busRead addr size u).1.toList, stopped := false } }) ∧
      (∀ addr lanes, s.host.program = .write addr lanes :: rest →
        step s = .next { busWrite addr lanes u with host := { s.host with program := rest } }) ∧
      (s.host.program = .waitIdle :: rest →
        step s = .next (if s.status.busy then u else { u with host := { s.host with program := rest } })) ∧
      (s.host.program = .stopIfErr :: rest →
        step s = .next { u with
          host := if s.status.err then { s.host with stopped := true } else { s.host with program := rest } }))

/-- R28: a write to STATUS clears DONE, ERR, BUSYVIOL and HPERR where it has a 1 and changes nothing else, BUSY or not;
bits [31:10] read 0, and reset leaves 0. A read changes nothing (R66). -/
def Obligations.StatusWriteClearsWhereOne : Prop :=
  (∀ s v,
    (∀ n ∈ [1, 2, 8, 9], bitAt (hostRead 0x18 (hostWrite 0x18 v s)).1 n = (bitAt (hostRead 0x18 s).1 n && !bitAt v n)) ∧
    (∀ n ∈ [0, 3, 4, 5, 6, 7], bitAt (hostRead 0x18 (hostWrite 0x18 v s)).1 n = bitAt (hostRead 0x18 s).1 n) ∧
    bitField (hostRead 0x18 s).1 31 10 = 0 ∧
    bitAt (hostRead 0x18 s).1 0 = s.status.busy ∧ bitAt (hostRead 0x18 s).1 1 = s.status.done ∧
    bitAt (hostRead 0x18 s).1 2 = s.status.err ∧ bitAt (hostRead 0x18 s).1 3 = s.status.degen ∧
    bitField (hostRead 0x18 s).1 7 4 = s.status.errCode.toNat ∧
    bitAt (hostRead 0x18 s).1 8 = s.status.busyViol ∧ bitAt (hostRead 0x18 s).1 9 = s.status.hpErr ∧
    hostWrite 0x18 v s = { s with status := (hostWrite 0x18 v s).status } ∧ (hostRead 0x18 s).2 = s) ∧
  ∀ p, (hostRead 0x18 (.resetWith p)).1 = 0

/-- R72: a host-port access out of range returns 0 or stores nothing, keeps HP_IDX and sets HPERR. -/
def Obligations.HostPortOutOfRangeSetsHpErr : Prop :=
  ∀ s v, s.status.busy = false → (Config.nbuf ≤ s.hpBuf.toNat ∨ (s.params.hmax + 2) * (s.params.wmax + 2) ≤ s.hpIdx.toNat) →
    hostRead 0x38 s = (0, { s with status := { s.status with hpErr := true } }) ∧
    hostWrite 0x38 v s = { s with status := { s.status with hpErr := true } }

/-- R70, R71, R82: an access in range, the index below (HMAX+2)·(WMAX+2) (R7), moves the addressed element and no other,
and HP_IDX advances by one without wrapping. A word written is what a read of the same element then returns, and what a command reads there (as S32). -/
def Obligations.HostPortMovesOneElement : Prop :=
  ∀ s v, s.params.wf → s.status.busy = false → s.hpBuf.toNat < Config.nbuf →
    s.hpIdx.toNat < (s.params.hmax + 2) * (s.params.wmax + 2) →
    hostRead 0x38 s = (elemWord s s.hpBuf.toNat s.hpIdx.toNat, { s with hpIdx := s.hpIdx + 1 }) ∧
    (s.hpIdx + 1).toNat = s.hpIdx.toNat + 1 ∧
    ∃ t, hostWrite 0x38 v s = t ∧ t = { s with hpIdx := s.hpIdx + 1, mem := t.mem } ∧
      (hostRead 0x38 { t with hpIdx := s.hpIdx }).1 = v ∧ elem t s.hpBuf.toNat s.hpIdx.toNat = s32 v ∧
      ∀ b k, b < Config.nbuf → (b ≠ s.hpBuf.toNat ∨ k ≠ s.hpIdx.toNat) → elemWord t b k = elemWord s b k

/-- R271: IRQ is the given function of the STATUS and IRQ_EN words as the host reads them, and with DONE_IE = 1 every
completion raises it. -/
def Obligations.IrqFollowsStatusAndEnables : Prop :=
  (∀ s, irq s =
    ((bitAt (hostRead 0x18 s).1 1 && bitAt (hostRead 0x1C s).1 0) ||
     (bitAt (hostRead 0x18 s).1 2 && bitAt (hostRead 0x1C s).1 1) ||
     ((bitAt (hostRead 0x18 s).1 8 || bitAt (hostRead 0x18 s).1 9) && bitAt (hostRead 0x1C s).1 2))) ∧
  ∀ s later t, engineNext s later → s.irqEn.doneIe = true → step s = .next t → irq t = true

/-! ### How a command ends -/

/-- R232, R233, R262: the completion of a command in flight either fails, with a cause and nothing else written, or ends
well, with no error reported; either way BUSY is 0 and DONE 1, and the registers the host owns are as before. -/
def Obligations.CompletionEndsWellOrFailsPrecisely : Prop :=
  ∀ s, InFlight s → ∃ t, complete s = .next t ∧
    ((∃ code info, code ≠ .none ∧ t = failed code info s) ∨
     (t.status.busy = false ∧ t.status.done = true ∧ t.status.err = false ∧ t.status.errCode = .none ∧ t.errInfo = 0 ∧
      t = { s with status := { s.status with done := true, busy := false, degen := t.status.degen }
                   scanMin := t.scanMin, scanMax := t.scanMax, mem := t.mem }))

/-- R29, R30: BUSY is set by the issue step and cleared by every completion, and no host write but an issue changes it;
DONE is cleared by the issue step, set by every completion, and cleared by a host write of 1 to bit 1. -/
def Obligations.BusyAndDoneFollowTheCommand : Prop :=
  (∀ s w, s.status.busy = false →
    (hostWrite 0x14 w s).status.busy = true ∧ (hostWrite 0x14 w s).status.done = false) ∧
  (∀ s t, complete s = .next t → t.status.busy = false ∧ t.status.done = true) ∧
  (∀ s off v, ¬ (off = 0x14 ∧ s.status.busy = false) → (hostWrite off v s).status.busy = s.status.busy) ∧
  (∀ s v, bitAt v 1 = true → (hostWrite 0x18 v s).status.done = false)

/-- R31, R33: the issue step clears ERR and ERRCODE; a completion that fails sets ERR and a nonzero ERRCODE, one that
succeeds leaves both clear; a host write of 1 to bit 2 of STATUS clears ERR and leaves ERRCODE. -/
def Obligations.ErrAndErrCodeFollowTheOutcome : Prop :=
  (∀ s w, s.status.busy = false →
    (hostWrite 0x14 w s).status.err = false ∧ (hostWrite 0x14 w s).status.errCode = .none) ∧
  (∀ s t, InFlight s → complete s = .next t →
    (t.status.err = true ∧ t.status.errCode ≠ .none ∧ ∃ code info, t = failed code info s) ∨
    (t.status.err = false ∧ t.status.errCode = .none)) ∧
  (∀ s v, bitAt v 2 = true →
    (hostWrite 0x18 v s).status.err = false ∧ (hostWrite 0x18 v s).status.errCode = s.status.errCode)

/-- R34, R35, R269: BUSYVIOL and HPERR are sticky: no issue, completion or host access clears one that is set, but a write
of 1 to its bit of STATUS, which does. -/
def Obligations.ViolationFlagsAreSticky : Prop :=
  (∀ s t, complete s = .next t →
    t.status.busyViol = s.status.busyViol ∧ t.status.hpErr = s.status.hpErr) ∧
  (∀ s off, (s.status.busyViol = true → (hostRead off s).2.status.busyViol = true) ∧
    (s.status.hpErr = true → (hostRead off s).2.status.hpErr = true)) ∧
  (∀ s off v,
    (s.status.busyViol = true →
      ((hostWrite off v s).status.busyViol = false ↔ off = 0x18 ∧ bitAt v 8 = true)) ∧
    (s.status.hpErr = true →
      ((hostWrite off v s).status.hpErr = false ↔ off = 0x18 ∧ bitAt v 9 = true)))

/-- R62: a command writes only the element indices its layout occupies of its destination, and no other buffer. -/
def Obligations.CommandsWriteOnlyTheirDestination : Prop :=
  ∀ i s t, exec i s = .next t →
    ∀ b k, b < Config.nbuf → (destination i = some b → layoutSize i s ≤ k) → elemWord t b k = elemWord s b k

/-- R43, R235: what a command writes depends on the buffers, IMG_DIM and CMD_ARG only: on no flag, no interrupt enable,
no host-port register, no earlier SCAN or ERR_INFO. -/
def Obligations.CommandOutcomeIgnoresFlags : Prop :=
  ∀ i s s' t t', s'.params = s.params → s'.imgDim = s.imgDim → s'.cmdArg = s.cmdArg → s'.mem = s.mem →
    s'.epoch = s.epoch → InFlight s → InFlight s' → exec i s = .next t → exec i s' = .next t' →
    t'.mem = t.mem ∧ t'.status.err = t.status.err ∧ t'.status.errCode = t.status.errCode ∧
    t'.status.degen = t.status.degen ∧ t'.errInfo = t.errInfo ∧
    ((t'.scanMin = t.scanMin ∧ t'.scanMax = t.scanMax) ∨
     (t.scanMin = s.scanMin ∧ t.scanMax = s.scanMax ∧ t'.scanMin = s'.scanMin ∧ t'.scanMax = s'.scanMax))

/-- R265: a command that uses a buffer index of 8 or more fails with BAD_BUFFER, info 0. -/
def Obligations.BadBufferIndexFails : Prop :=
  ∀ i s b, b ∈ i.buffers → Config.nbuf ≤ b → exec i s = .next (failed .badBuffer 0 s)

/-- R266: a command other than NOP whose buffers exist fails with INVALID_INPUT, info 0, when H or W is 0 or above its
limit. -/
def Obligations.InvalidDimensionsFail : Prop :=
  ∀ i s, i ≠ .nop → (∀ b ∈ i.buffers, b < Config.nbuf) →
    (s.imgH = 0 ∨ s.params.hmax < s.imgH ∨ s.imgW = 0 ∨ s.params.wmax < s.imgW) →
    exec i s = .next (failed .invalidInput 0 s)

/-- R267: WINDOW fails with BAD_ARG, info 0, when the centre lies outside [1, H] × [1, W]. -/
def Obligations.WindowCentreOutsideFails : Prop :=
  ∀ s d a, d < Config.nbuf → a < Config.nbuf → validDims s →
    (s.crow = 0 ∨ s.imgH < s.crow ∨ s.ccol = 0 ∨ s.imgW < s.ccol) →
    exec (.window d a) s = .next (failed .badArg 0 s)

/-- R268: CONV fails with OVERFLOW when some exact sum is no S32 value; ERR_INFO is the lowest such index. -/
def Obligations.OverflowReportsTheLowestIndex : Prop :=
  ∀ K s d a k, s.params.wf → d < Config.nbuf → a < Config.nbuf → validDims s → k < pixels s →
    ¬ isS32 (gradientAt K s a k) → (∀ j < k, isS32 (gradientAt K s a j)) →
    exec (convCommand K d a) s = .next (failed .overflow (BitVec.ofNat 32 k) s) ∧ (BitVec.ofNat 32 k).toNat = k

/-! ### What each command computes -/

/-- R234: NOP ends the command and changes nothing else, whatever IMG_DIM and CMD_ARG hold; it is the only word with
OP = 0 that is not illegal. -/
def Obligations.NopOnlyEndsTheCommand : Prop :=
  (∀ s, exec .nop s = .next { s with status := { s.status with done := true, busy := false } }) ∧
  ∀ w, opField w = 0 → (decode w = .instr .nop ↔ w = 0) ∧ (w ≠ 0 → decode w = .illegalOp)

/-- R121: PAD writes the zero-padded image, row-major with stride W + 2, and nothing else. -/
def Obligations.PadWritesThePaddedImage : Prop :=
  ∀ s d a, d < Config.nbuf → a < Config.nbuf → validDims s →
    ∃ t, exec (.pad d a) s = .next t ∧ endedWell s t ∧ writesOnly s t d ((s.imgH + 2) * (s.imgW + 2)) ∧
      (∀ i j, i < s.imgH → j < s.imgW →
        elem t d ((i + 1) * (s.imgW + 2) + (j + 1)) = elem s a (i * s.imgW + j)) ∧
      (∀ i j, i ≤ s.imgH + 1 → j ≤ s.imgW + 1 → (i = 0 ∨ i = s.imgH + 1 ∨ j = 0 ∨ j = s.imgW + 1) →
        elem t d (i * (s.imgW + 2) + j) = 0)

/-- R122, R123: WINDOW writes the nine values around its centre (1-indexed into the padded image), and nothing else. -/
def Obligations.WindowWritesTheNeighbourhood : Prop :=
  ∀ s d a, d < Config.nbuf → a < Config.nbuf → validDims s →
    1 ≤ s.crow → s.crow ≤ s.imgH → 1 ≤ s.ccol → s.ccol ≤ s.imgW →
    ∃ t, exec (.window d a) s = .next t ∧ endedWell s t ∧ writesOnly s t d 9 ∧
      ∀ i j : Nat, i < 3 → j < 3 →
        elem t d (3 * i + j) = pixel s a ((s.crow : Int) - 1 + ((i : Int) - 1)) ((s.ccol : Int) - 1 + ((j : Int) - 1))

/-- R141, R142: MEDIAN writes to every pixel the value that stands fifth when its nine neighbourhood values are sorted:
at most four are smaller and at least five are not greater. Nothing else changes. -/
def Obligations.MedianWritesTheFifthSmallest : Prop :=
  ∀ s d a, d < Config.nbuf → a < Config.nbuf → validDims s →
    ∃ t, exec (.median d a) s = .next t ∧ endedWell s t ∧ writesOnly s t d (pixels s) ∧
      ∀ y x : Nat, y < s.imgH → x < s.imgW →
        elem t d (y * s.imgW + x) ∈ neighbourhood s a y x ∧
        (neighbourhood s a y x).countP (fun v => decide (v < elem t d (y * s.imgW + x))) ≤ 4 ∧
        5 ≤ (neighbourhood s a y x).countP (fun v => decide (v ≤ elem t d (y * s.imgW + x)))

/-- R144: the median of a corner pixel is 0 when H, W ≥ 2, and every median is 0 when H = 1 or W = 1, whatever the
signs of the image. -/
def Obligations.MedianIsZeroWhereFiveZerosPad : Prop :=
  ∀ s d a t (y x : Nat), d < Config.nbuf → a < Config.nbuf → validDims s → exec (.median d a) s = .next t →
    y < s.imgH → x < s.imgW →
    (((y = 0 ∨ y + 1 = s.imgH) ∧ (x = 0 ∨ x + 1 = s.imgW)) ∨ s.imgH = 1 ∨ s.imgW = 1) →
    elem t d (y * s.imgW + x) = 0

/-- R143: the comparator network selects the fifth smallest of any nine integers. -/
def Obligations.MedianNetworkSelectsTheFifth : Prop :=
  ∀ p0 p1 p2 p3 p4 p5 p6 p7 p8 : Int,
    medianNetwork [p0, p1, p2, p3, p4, p5, p6, p7, p8] = kthSmallest [p0, p1, p2, p3, p4, p5, p6, p7, p8] 4

/-- R125: the line-buffer scan of an (H+2)×(W+2) array, from any contents of its buffers and columns, emits the 3×3
windows of the addressing law in row-major order. -/
def Obligations.LineScanEmitsTheWindows : Prop :=
  ∀ (P : Nat → Nat → Int) (H W : Nat) (ls : LineScan), 1 ≤ H → 1 ≤ W → ls.lb0.length = W + 2 →
    ls.lb1.length = W + 2 → ls.emitted = [] →
    (lineScan P (H + 2) (W + 2) ls).emitted =
      (List.range (H * W)).map fun k => (List.range 9).map fun m => P (k / W + m / 3) (k % W + m % 3)

/-- R163: CONV.H writes the right column minus the left column of every neighbourhood, and nothing else. -/
def Obligations.ConvHWritesRightMinusLeft : Prop := convolvesWell .horizontal

/-- R164: CONV.V writes the bottom row minus the top row of every neighbourhood, and nothing else. -/
def Obligations.ConvVWritesBottomMinusTop : Prop := convolvesWell .vertical

/-- R165: CONV.D45 writes the lower left minus the upper right of every neighbourhood, and nothing else. -/
def Obligations.ConvD45WritesLowerLeftMinusUpperRight : Prop := convolvesWell .diag45

/-- R166: CONV.D135 writes the upper left minus the lower right of every neighbourhood, and nothing else. -/
def Obligations.ConvD135WritesUpperLeftMinusLowerRight : Prop := convolvesWell .diag135

/-- R167: when every source element lies in [L, U], every sum lies within 4·(max(U,0) − min(L,0)) of 0; for 8-bit
samples within 1020, so no convolution of them overflows. -/
def Obligations.ConvSumsStayInRange : Prop :=
  ∀ (K : Kernel) s a (L U : Int) k, (∀ j < pixels s, L ≤ elem s a j ∧ elem s a j ≤ U) → k < pixels s →
    (-(4 * (max U 0 - min L 0)) ≤ gradientAt K s a k ∧ gradientAt K s a k ≤ 4 * (max U 0 - min L 0)) ∧
    (L = 0 → U = 255 → -1020 ≤ gradientAt K s a k ∧ gradientAt K s a k ≤ 1020 ∧
      ∀ d, d < Config.nbuf → a < Config.nbuf → validDims s →
        ∃ t, exec (convCommand K d a) s = .next t ∧ t.status.err = s.status.err ∧ t.errInfo = s.errInfo)

/-- R171: CONV.D135 of an image is, row for row from the other end, CONV.D45 of the image mirrored top to bottom. -/
def Obligations.DiagonalsMirrorEachOther : Prop :=
  ∀ s d a s' d' a' t t', validDims s → s'.imgDim = s.imgDim → s'.params = s.params →
    d < Config.nbuf → a < Config.nbuf → d' < Config.nbuf → a' < Config.nbuf →
    (∀ y x, y < s.imgH → x < s.imgW →
      elem s' a' (y * s.imgW + x) = elem s a ((s.imgH - 1 - y) * s.imgW + x)) →
    InFlight s → InFlight s' → exec (.convD135 d a) s = .next t → exec (.convD45 d' a') s' = .next t' →
    t.status.err = t'.status.err ∧
    (t.status.err = false → ∀ y x, y < s.imgH → x < s.imgW →
      elem t d (y * s.imgW + x) = elem t' d' ((s.imgH - 1 - y) * s.imgW + x))

/-- R191, R195: NORM of an array that is not constant rescales exactly to [0, 255], leaves the extremes in SCAN as
64-bit two's complement and DEGEN as issue left it; nothing else changes. -/
def Obligations.NormRescalesExactly : Prop :=
  ∀ s d a mn mx, d < Config.nbuf → a < Config.nbuf → validDims s →
    isLeast (pixels s) (elem s a) mn → isGreatest (pixels s) (elem s a) mx → mn ≠ mx →
    ∃ t, exec (.norm d a) s = .next t ∧
      normalizedWell s t false (BitVec.ofInt 64 mn) (BitVec.ofInt 64 mx) ∧ writesOnly s t d (pixels s) ∧
      ∀ k < pixels s, isFloorDiv (255 * (elem s a k - mn)) (mx - mn) (elem t d k)

/-- R193, R195: NORM of a constant array succeeds with every output 0, DEGEN = 1 and SCAN_MIN = SCAN_MAX. -/
def Obligations.NormOfConstantArrayIsDegenerate : Prop :=
  ∀ s d a v, d < Config.nbuf → a < Config.nbuf → validDims s → (∀ k < pixels s, elem s a k = v) →
    ∃ t, exec (.norm d a) s = .next t ∧
      normalizedWell s t true (BitVec.ofInt 64 v) (BitVec.ofInt 64 v) ∧ writesOnly s t d (pixels s) ∧
      ∀ k < pixels s, elem t d k = 0

/-- R191, and what the spec infers from it in R194 and R203: the output of a NORM that is not degenerate lies in
[0, 255], is 0 at the minimum and 255 at the maximum, and is a non-decreasing function of the input. -/
def Obligations.NormSpansTheByteRange : Prop :=
  ∀ s d a mn mx t, d < Config.nbuf → a < Config.nbuf → validDims s →
    isLeast (pixels s) (elem s a) mn → isGreatest (pixels s) (elem s a) mx → mn ≠ mx →
    exec (.norm d a) s = .next t →
    ∀ k < pixels s, (0 ≤ elem t d k ∧ elem t d k ≤ 255) ∧ (elem s a k = mn → elem t d k = 0) ∧
      (elem s a k = mx → elem t d k = 255) ∧
      ∀ j < pixels s, elem s a k ≤ elem s a j → elem t d k ≤ elem t d j

/-- R201: NORM of α·x + β (α ≥ 1, not constant, every element an S32 value) is NORM of x, element by element. -/
def Obligations.NormIsAffineInvariant : Prop :=
  ∀ s d a s' d' a' (α β : Int) t t', 1 ≤ α → d < Config.nbuf → a < Config.nbuf → d' < Config.nbuf →
    a' < Config.nbuf → validDims s → s'.imgDim = s.imgDim → s'.params = s.params →
    (∀ k < pixels s, elem s' a' k = α * elem s a k + β) →
    (∃ j k, j < pixels s ∧ k < pixels s ∧ elem s a j ≠ elem s a k) →
    exec (.norm d a) s = .next t → exec (.norm d' a') s' = .next t' →
    ∀ k < pixels s, elem t' d' k = elem t d k

/-- R197, R199: MAGNORM of magnitudes that are not all equal rescales them exactly, leaves the binary64 encodings of the
extremes in SCAN and DEGEN as issue left it; nothing else changes. -/
def Obligations.MagnormRescalesExactly : Prop :=
  ∀ s d a b jn jx, d < Config.nbuf → a < Config.nbuf → b < Config.nbuf → validDims s →
    jn < pixels s → jx < pixels s → (∀ k < pixels s, magnitude s a b jn ≤ magnitude s a b k) →
    (∀ k < pixels s, magnitude s a b k ≤ magnitude s a b jx) → magnitude s a b jn ≠ magnitude s a b jx →
    ∃ t, exec (.magnorm d a b) s = .next t ∧
      normalizedWell s t false (f64Bits (magnitudeAt s a b jn)) (f64Bits (magnitudeAt s a b jx)) ∧
      writesOnly s t d (pixels s) ∧
      ∀ k < pixels s, isFloorDiv (255 * (magnitude s a b k - magnitude s a b jn))
        (magnitude s a b jx - magnitude s a b jn) (elem t d k)

/-- R198: MAGNORM of equal magnitudes succeeds with every output 0 and DEGEN = 1. -/
def Obligations.MagnormOfEqualMagnitudesIsDegenerate : Prop :=
  ∀ s d a b, d < Config.nbuf → a < Config.nbuf → b < Config.nbuf → validDims s →
    (∀ k < pixels s, magnitude s a b k = magnitude s a b 0) →
    ∃ t, exec (.magnorm d a b) s = .next t ∧
      normalizedWell s t true (f64Bits (magnitudeAt s a b 0)) (f64Bits (magnitudeAt s a b 0)) ∧
      writesOnly s t d (pixels s) ∧ ∀ k < pixels s, elem t d k = 0

/-- R203, R204: the output of a MAGNORM that is not degenerate lies in [0, 255], is 0 at the least magnitude and 255 at
the greatest, and does not decrease where the sum of squares grows. -/
def Obligations.MagnormSpansTheByteRange : Prop :=
  ∀ s d a b jn jx t, d < Config.nbuf → a < Config.nbuf → b < Config.nbuf → validDims s →
    jn < pixels s → jx < pixels s → (∀ k < pixels s, magnitude s a b jn ≤ magnitude s a b k) →
    (∀ k < pixels s, magnitude s a b k ≤ magnitude s a b jx) → magnitude s a b jn ≠ magnitude s a b jx →
    exec (.magnorm d a b) s = .next t →
    ∀ k < pixels s, (0 ≤ elem t d k ∧ elem t d k ≤ 255) ∧
      (magnitude s a b k = magnitude s a b jn → elem t d k = 0) ∧
      (magnitude s a b k = magnitude s a b jx → elem t d k = 255) ∧
      ∀ j < pixels s, sumOfSquares s a b k ≤ sumOfSquares s a b j → elem t d k ≤ elem t d j

/-- R10, R196: `f64(n)` is a normalized binary64 value, exact up to 2^53, and no other such value `y` is nearer to n:
n is not past the midpoint towards any `y`, and at a midpoint the significand chosen is the even one. (All on the
fix52 scale.) -/
def Obligations.IntegerConversionRoundsToNearestEven : Prop :=
  ∀ n, (f64 n).normal ∧ (n ≤ 2 ^ 53 → fix52 (f64 n) = n * 2 ^ 52) ∧
    ∀ y : F64, y.normal →
      (fix52 y < fix52 (f64 n) → fix52 y + fix52 (f64 n) ≤ 2 * (n * 2 ^ 52)) ∧
      (fix52 (f64 n) < fix52 y → 2 * (n * 2 ^ 52) ≤ fix52 (f64 n) + fix52 y) ∧
      ((f64 n).sig % 2 = 1 → fix52 y ≠ fix52 (f64 n) → fix52 y + fix52 (f64 n) ≠ 2 * (n * 2 ^ 52))

/-- R10, R196: `f64_sqrt(x)` is normalized and correctly rounded: the exact root lies on its side of the midpoint towards
every other normalized value `y` that is 0 or at least 1. (Squares on the fix52 scale: the root of x is
√(fix52 x · 2^52); x itself is 0 or at least 1.) -/
def Obligations.SquareRootRoundsToNearest : Prop :=
  ∀ x : F64, x.normal → (f64Sqrt x).normal ∧ (x.sig = 0 → f64Sqrt x = x) ∧
    ∀ y : F64, y.normal →
      (fix52 y < fix52 (f64Sqrt x) → (fix52 y + fix52 (f64Sqrt x)) ^ 2 < 4 * (fix52 x * 2 ^ 52)) ∧
      (fix52 (f64Sqrt x) < fix52 y → 4 * (fix52 x * 2 ^ 52) < (fix52 (f64Sqrt x) + fix52 y) ^ 2)

/-- R196, R199, R204, R205: the magnitude of element k is `f64_sqrt(f64(x² + y²))` of the elements x and y of the two
gradients. The sum is at most 2^63, and the magnitude is 0 or lies in [1, 2^32) on the fix52 scale, so pass 2 of MAGNORM
stays below 2^84. Its encoding has sign 0, and read back by IEEE 754's rule (sign 0, exponent biased by 1023, hidden bit;
PRESUMED, notes/assumptions/10.md) gives the magnitude. -/
def Obligations.MagnitudesAreZeroOrAtLeastOne : Prop :=
  ∀ s a b k,
    (sumOfSquares s a b k : Int) = elem s a k * elem s a k + elem s b k * elem s b k ∧
    magnitudeAt s a b k = f64Sqrt (f64 (sumOfSquares s a b k)) ∧
    sumOfSquares s a b k ≤ 2 ^ 63 ∧ (magnitudeAt s a b k).normal ∧
    (magnitude s a b k = 0 ↔ sumOfSquares s a b k = 0) ∧
    (magnitude s a b k ≠ 0 → 2 ^ 52 ≤ magnitude s a b k) ∧ magnitude s a b k < 2 ^ 84 ∧
    (f64Bits (magnitudeAt s a b k)).toNat < 2 ^ 63 ∧ magnitude s a b k = valueOfBits (f64Bits (magnitudeAt s a b k))
end

