-- ==== Sys2Proof/Laws/State.lean ====
section
/-! SUPPORT. What each named update of the state does to each field, true by unfolding once, so that no proof unfolds
a record update again. -/

namespace Sys2Proof.Machine

/-! ### writeBuffer -/

@[simp] theorem writeBuffer_params (d : Nat) (out : List Int) (s : State) :
    (writeBuffer d out s).params = s.params := rfl
@[simp] theorem writeBuffer_imgDim (d : Nat) (out : List Int) (s : State) :
    (writeBuffer d out s).imgDim = s.imgDim := rfl
@[simp] theorem writeBuffer_cmdArg (d : Nat) (out : List Int) (s : State) :
    (writeBuffer d out s).cmdArg = s.cmdArg := rfl
@[simp] theorem writeBuffer_cmd (d : Nat) (out : List Int) (s : State) : (writeBuffer d out s).cmd = s.cmd := rfl
@[simp] theorem writeBuffer_status (d : Nat) (out : List Int) (s : State) :
    (writeBuffer d out s).status = s.status := rfl
@[simp] theorem writeBuffer_irqEn (d : Nat) (out : List Int) (s : State) :
    (writeBuffer d out s).irqEn = s.irqEn := rfl
@[simp] theorem writeBuffer_scanMin (d : Nat) (out : List Int) (s : State) :
    (writeBuffer d out s).scanMin = s.scanMin := rfl
@[simp] theorem writeBuffer_scanMax (d : Nat) (out : List Int) (s : State) :
    (writeBuffer d out s).scanMax = s.scanMax := rfl
@[simp] theorem writeBuffer_hpBuf (d : Nat) (out : List Int) (s : State) :
    (writeBuffer d out s).hpBuf = s.hpBuf := rfl
@[simp] theorem writeBuffer_hpIdx (d : Nat) (out : List Int) (s : State) :
    (writeBuffer d out s).hpIdx = s.hpIdx := rfl
@[simp] theorem writeBuffer_errInfo (d : Nat) (out : List Int) (s : State) :
    (writeBuffer d out s).errInfo = s.errInfo := rfl
@[simp] theorem writeBuffer_mem (d : Nat) (out : List Int) (s : State) :
    (writeBuffer d out s).mem = storeRun s.mem d 0 out := rfl
@[simp] theorem writeBuffer_epoch (d : Nat) (out : List Int) (s : State) :
    (writeBuffer d out s).epoch = s.epoch := rfl
@[simp] theorem writeBuffer_turns (d : Nat) (out : List Int) (s : State) :
    (writeBuffer d out s).turns = s.turns := rfl
@[simp] theorem writeBuffer_host (d : Nat) (out : List Int) (s : State) : (writeBuffer d out s).host = s.host := rfl

/-! ### issue -/

@[simp] theorem issue_params (w : Word) (s : State) : (issue w s).params = s.params := rfl
@[simp] theorem issue_imgDim (w : Word) (s : State) : (issue w s).imgDim = s.imgDim := rfl
@[simp] theorem issue_cmdArg (w : Word) (s : State) : (issue w s).cmdArg = s.cmdArg := rfl
@[simp] theorem issue_cmd (w : Word) (s : State) : (issue w s).cmd = w := rfl
@[simp] theorem issue_status (w : Word) (s : State) : (issue w s).status =
    { s.status with busy := true, done := false, err := false, errCode := .none, degen := false } := rfl
@[simp] theorem issue_irqEn (w : Word) (s : State) : (issue w s).irqEn = s.irqEn := rfl
@[simp] theorem issue_scanMin (w : Word) (s : State) : (issue w s).scanMin = s.scanMin := rfl
@[simp] theorem issue_scanMax (w : Word) (s : State) : (issue w s).scanMax = s.scanMax := rfl
@[simp] theorem issue_hpBuf (w : Word) (s : State) : (issue w s).hpBuf = s.hpBuf := rfl
@[simp] theorem issue_hpIdx (w : Word) (s : State) : (issue w s).hpIdx = s.hpIdx := rfl
@[simp] theorem issue_errInfo (w : Word) (s : State) : (issue w s).errInfo = 0 := rfl
@[simp] theorem issue_mem (w : Word) (s : State) : (issue w s).mem = s.mem := rfl
@[simp] theorem issue_epoch (w : Word) (s : State) : (issue w s).epoch = s.epoch := rfl
@[simp] theorem issue_turns (w : Word) (s : State) : (issue w s).turns = s.turns := rfl
@[simp] theorem issue_host (w : Word) (s : State) : (issue w s).host = s.host := rfl

/-! ### commandDone -/

@[simp] theorem commandDone_params (s : State) : (commandDone s).params = s.params := rfl
@[simp] theorem commandDone_imgDim (s : State) : (commandDone s).imgDim = s.imgDim := rfl
@[simp] theorem commandDone_cmdArg (s : State) : (commandDone s).cmdArg = s.cmdArg := rfl
@[simp] theorem commandDone_cmd (s : State) : (commandDone s).cmd = s.cmd := rfl
@[simp] theorem commandDone_status (s : State) :
    (commandDone s).status = { s.status with done := true, busy := false } := rfl
@[simp] theorem commandDone_irqEn (s : State) : (commandDone s).irqEn = s.irqEn := rfl
@[simp] theorem commandDone_scanMin (s : State) : (commandDone s).scanMin = s.scanMin := rfl
@[simp] theorem commandDone_scanMax (s : State) : (commandDone s).scanMax = s.scanMax := rfl
@[simp] theorem commandDone_hpBuf (s : State) : (commandDone s).hpBuf = s.hpBuf := rfl
@[simp] theorem commandDone_hpIdx (s : State) : (commandDone s).hpIdx = s.hpIdx := rfl
@[simp] theorem commandDone_errInfo (s : State) : (commandDone s).errInfo = s.errInfo := rfl
@[simp] theorem commandDone_mem (s : State) : (commandDone s).mem = s.mem := rfl
@[simp] theorem commandDone_epoch (s : State) : (commandDone s).epoch = s.epoch := rfl
@[simp] theorem commandDone_turns (s : State) : (commandDone s).turns = s.turns := rfl
@[simp] theorem commandDone_host (s : State) : (commandDone s).host = s.host := rfl

/-! ### commandFail -/

@[simp] theorem commandFail_params (c : ErrCode) (n : Nat) (s : State) : (commandFail c n s).params = s.params := rfl
@[simp] theorem commandFail_imgDim (c : ErrCode) (n : Nat) (s : State) : (commandFail c n s).imgDim = s.imgDim := rfl
@[simp] theorem commandFail_cmdArg (c : ErrCode) (n : Nat) (s : State) : (commandFail c n s).cmdArg = s.cmdArg := rfl
@[simp] theorem commandFail_cmd (c : ErrCode) (n : Nat) (s : State) : (commandFail c n s).cmd = s.cmd := rfl
@[simp] theorem commandFail_status (c : ErrCode) (n : Nat) (s : State) :
    (commandFail c n s).status = { s.status with errCode := c, err := true, done := true, busy := false } := rfl
@[simp] theorem commandFail_irqEn (c : ErrCode) (n : Nat) (s : State) : (commandFail c n s).irqEn = s.irqEn := rfl
@[simp] theorem commandFail_scanMin (c : ErrCode) (n : Nat) (s : State) :
    (commandFail c n s).scanMin = s.scanMin := rfl
@[simp] theorem commandFail_scanMax (c : ErrCode) (n : Nat) (s : State) :
    (commandFail c n s).scanMax = s.scanMax := rfl
@[simp] theorem commandFail_hpBuf (c : ErrCode) (n : Nat) (s : State) : (commandFail c n s).hpBuf = s.hpBuf := rfl
@[simp] theorem commandFail_hpIdx (c : ErrCode) (n : Nat) (s : State) : (commandFail c n s).hpIdx = s.hpIdx := rfl
@[simp] theorem commandFail_errInfo (c : ErrCode) (n : Nat) (s : State) :
    (commandFail c n s).errInfo = BitVec.ofNat 32 n := rfl
@[simp] theorem commandFail_mem (c : ErrCode) (n : Nat) (s : State) : (commandFail c n s).mem = s.mem := rfl
@[simp] theorem commandFail_epoch (c : ErrCode) (n : Nat) (s : State) : (commandFail c n s).epoch = s.epoch := rfl
@[simp] theorem commandFail_turns (c : ErrCode) (n : Nat) (s : State) : (commandFail c n s).turns = s.turns := rfl
@[simp] theorem commandFail_host (c : ErrCode) (n : Nat) (s : State) : (commandFail c n s).host = s.host := rfl

/-! ### setBusyViol -/

@[simp] theorem setBusyViol_params (s : State) : (setBusyViol s).params = s.params := rfl
@[simp] theorem setBusyViol_imgDim (s : State) : (setBusyViol s).imgDim = s.imgDim := rfl
@[simp] theorem setBusyViol_cmdArg (s : State) : (setBusyViol s).cmdArg = s.cmdArg := rfl
@[simp] theorem setBusyViol_cmd (s : State) : (setBusyViol s).cmd = s.cmd := rfl
@[simp] theorem setBusyViol_status (s : State) : (setBusyViol s).status = { s.status with busyViol := true } := rfl
@[simp] theorem setBusyViol_irqEn (s : State) : (setBusyViol s).irqEn = s.irqEn := rfl
@[simp] theorem setBusyViol_scanMin (s : State) : (setBusyViol s).scanMin = s.scanMin := rfl
@[simp] theorem setBusyViol_scanMax (s : State) : (setBusyViol s).scanMax = s.scanMax := rfl
@[simp] theorem setBusyViol_hpBuf (s : State) : (setBusyViol s).hpBuf = s.hpBuf := rfl
@[simp] theorem setBusyViol_hpIdx (s : State) : (setBusyViol s).hpIdx = s.hpIdx := rfl
@[simp] theorem setBusyViol_errInfo (s : State) : (setBusyViol s).errInfo = s.errInfo := rfl
@[simp] theorem setBusyViol_mem (s : State) : (setBusyViol s).mem = s.mem := rfl
@[simp] theorem setBusyViol_epoch (s : State) : (setBusyViol s).epoch = s.epoch := rfl
@[simp] theorem setBusyViol_turns (s : State) : (setBusyViol s).turns = s.turns := rfl
@[simp] theorem setBusyViol_host (s : State) : (setBusyViol s).host = s.host := rfl

/-! ### setHpErr -/

@[simp] theorem setHpErr_params (s : State) : (setHpErr s).params = s.params := rfl
@[simp] theorem setHpErr_imgDim (s : State) : (setHpErr s).imgDim = s.imgDim := rfl
@[simp] theorem setHpErr_cmdArg (s : State) : (setHpErr s).cmdArg = s.cmdArg := rfl
@[simp] theorem setHpErr_cmd (s : State) : (setHpErr s).cmd = s.cmd := rfl
@[simp] theorem setHpErr_status (s : State) : (setHpErr s).status = { s.status with hpErr := true } := rfl
@[simp] theorem setHpErr_irqEn (s : State) : (setHpErr s).irqEn = s.irqEn := rfl
@[simp] theorem setHpErr_scanMin (s : State) : (setHpErr s).scanMin = s.scanMin := rfl
@[simp] theorem setHpErr_scanMax (s : State) : (setHpErr s).scanMax = s.scanMax := rfl
@[simp] theorem setHpErr_hpBuf (s : State) : (setHpErr s).hpBuf = s.hpBuf := rfl
@[simp] theorem setHpErr_hpIdx (s : State) : (setHpErr s).hpIdx = s.hpIdx := rfl
@[simp] theorem setHpErr_errInfo (s : State) : (setHpErr s).errInfo = s.errInfo := rfl
@[simp] theorem setHpErr_mem (s : State) : (setHpErr s).mem = s.mem := rfl
@[simp] theorem setHpErr_epoch (s : State) : (setHpErr s).epoch = s.epoch := rfl
@[simp] theorem setHpErr_turns (s : State) : (setHpErr s).turns = s.turns := rfl
@[simp] theorem setHpErr_host (s : State) : (setHpErr s).host = s.host := rfl

/-! ### setScan -/

@[simp] theorem setScan_params (lo hi : BitVec 64) (s : State) : (setScan lo hi s).params = s.params := rfl
@[simp] theorem setScan_imgDim (lo hi : BitVec 64) (s : State) : (setScan lo hi s).imgDim = s.imgDim := rfl
@[simp] theorem setScan_cmdArg (lo hi : BitVec 64) (s : State) : (setScan lo hi s).cmdArg = s.cmdArg := rfl
@[simp] theorem setScan_cmd (lo hi : BitVec 64) (s : State) : (setScan lo hi s).cmd = s.cmd := rfl
@[simp] theorem setScan_status (lo hi : BitVec 64) (s : State) : (setScan lo hi s).status = s.status := rfl
@[simp] theorem setScan_irqEn (lo hi : BitVec 64) (s : State) : (setScan lo hi s).irqEn = s.irqEn := rfl
@[simp] theorem setScan_scanMin (lo hi : BitVec 64) (s : State) : (setScan lo hi s).scanMin = lo := rfl
@[simp] theorem setScan_scanMax (lo hi : BitVec 64) (s : State) : (setScan lo hi s).scanMax = hi := rfl
@[simp] theorem setScan_hpBuf (lo hi : BitVec 64) (s : State) : (setScan lo hi s).hpBuf = s.hpBuf := rfl
@[simp] theorem setScan_hpIdx (lo hi : BitVec 64) (s : State) : (setScan lo hi s).hpIdx = s.hpIdx := rfl
@[simp] theorem setScan_errInfo (lo hi : BitVec 64) (s : State) : (setScan lo hi s).errInfo = s.errInfo := rfl
@[simp] theorem setScan_mem (lo hi : BitVec 64) (s : State) : (setScan lo hi s).mem = s.mem := rfl
@[simp] theorem setScan_epoch (lo hi : BitVec 64) (s : State) : (setScan lo hi s).epoch = s.epoch := rfl
@[simp] theorem setScan_turns (lo hi : BitVec 64) (s : State) : (setScan lo hi s).turns = s.turns := rfl
@[simp] theorem setScan_host (lo hi : BitVec 64) (s : State) : (setScan lo hi s).host = s.host := rfl

/-! ### markDegen -/

@[simp] theorem markDegen_params (g : Bool) (s : State) : (markDegen g s).params = s.params := rfl
@[simp] theorem markDegen_imgDim (g : Bool) (s : State) : (markDegen g s).imgDim = s.imgDim := rfl
@[simp] theorem markDegen_cmdArg (g : Bool) (s : State) : (markDegen g s).cmdArg = s.cmdArg := rfl
@[simp] theorem markDegen_cmd (g : Bool) (s : State) : (markDegen g s).cmd = s.cmd := rfl
@[simp] theorem markDegen_status (g : Bool) (s : State) :
    (markDegen g s).status = { s.status with degen := s.status.degen || g } := rfl
@[simp] theorem markDegen_irqEn (g : Bool) (s : State) : (markDegen g s).irqEn = s.irqEn := rfl
@[simp] theorem markDegen_scanMin (g : Bool) (s : State) : (markDegen g s).scanMin = s.scanMin := rfl
@[simp] theorem markDegen_scanMax (g : Bool) (s : State) : (markDegen g s).scanMax = s.scanMax := rfl
@[simp] theorem markDegen_hpBuf (g : Bool) (s : State) : (markDegen g s).hpBuf = s.hpBuf := rfl
@[simp] theorem markDegen_hpIdx (g : Bool) (s : State) : (markDegen g s).hpIdx = s.hpIdx := rfl
@[simp] theorem markDegen_errInfo (g : Bool) (s : State) : (markDegen g s).errInfo = s.errInfo := rfl
@[simp] theorem markDegen_mem (g : Bool) (s : State) : (markDegen g s).mem = s.mem := rfl
@[simp] theorem markDegen_epoch (g : Bool) (s : State) : (markDegen g s).epoch = s.epoch := rfl
@[simp] theorem markDegen_turns (g : Bool) (s : State) : (markDegen g s).turns = s.turns := rfl
@[simp] theorem markDegen_host (g : Bool) (s : State) : (markDegen g s).host = s.host := rfl

/-! ### hostGoesOn -/

@[simp] theorem hostGoesOn_params (rest : List HostOp) (s : State) : (hostGoesOn rest s).params = s.params := rfl
@[simp] theorem hostGoesOn_imgDim (rest : List HostOp) (s : State) : (hostGoesOn rest s).imgDim = s.imgDim := rfl
@[simp] theorem hostGoesOn_cmdArg (rest : List HostOp) (s : State) : (hostGoesOn rest s).cmdArg = s.cmdArg := rfl
@[simp] theorem hostGoesOn_cmd (rest : List HostOp) (s : State) : (hostGoesOn rest s).cmd = s.cmd := rfl
@[simp] theorem hostGoesOn_status (rest : List HostOp) (s : State) : (hostGoesOn rest s).status = s.status := rfl
@[simp] theorem hostGoesOn_irqEn (rest : List HostOp) (s : State) : (hostGoesOn rest s).irqEn = s.irqEn := rfl
@[simp] theorem hostGoesOn_scanMin (rest : List HostOp) (s : State) : (hostGoesOn rest s).scanMin = s.scanMin := rfl
@[simp] theorem hostGoesOn_scanMax (rest : List HostOp) (s : State) : (hostGoesOn rest s).scanMax = s.scanMax := rfl
@[simp] theorem hostGoesOn_hpBuf (rest : List HostOp) (s : State) : (hostGoesOn rest s).hpBuf = s.hpBuf := rfl
@[simp] theorem hostGoesOn_hpIdx (rest : List HostOp) (s : State) : (hostGoesOn rest s).hpIdx = s.hpIdx := rfl
@[simp] theorem hostGoesOn_errInfo (rest : List HostOp) (s : State) : (hostGoesOn rest s).errInfo = s.errInfo := rfl
@[simp] theorem hostGoesOn_mem (rest : List HostOp) (s : State) : (hostGoesOn rest s).mem = s.mem := rfl
@[simp] theorem hostGoesOn_epoch (rest : List HostOp) (s : State) : (hostGoesOn rest s).epoch = s.epoch := rfl
@[simp] theorem hostGoesOn_turns (rest : List HostOp) (s : State) : (hostGoesOn rest s).turns = s.turns := rfl
@[simp] theorem hostGoesOn_host (rest : List HostOp) (s : State) :
    (hostGoesOn rest s).host = { s.host with program := rest } := rfl

/-! ### hostNotes -/

@[simp] theorem hostNotes_params (v : Option Word) (s : State) : (hostNotes v s).params = s.params := rfl
@[simp] theorem hostNotes_imgDim (v : Option Word) (s : State) : (hostNotes v s).imgDim = s.imgDim := rfl
@[simp] theorem hostNotes_cmdArg (v : Option Word) (s : State) : (hostNotes v s).cmdArg = s.cmdArg := rfl
@[simp] theorem hostNotes_cmd (v : Option Word) (s : State) : (hostNotes v s).cmd = s.cmd := rfl
@[simp] theorem hostNotes_status (v : Option Word) (s : State) : (hostNotes v s).status = s.status := rfl
@[simp] theorem hostNotes_irqEn (v : Option Word) (s : State) : (hostNotes v s).irqEn = s.irqEn := rfl
@[simp] theorem hostNotes_scanMin (v : Option Word) (s : State) : (hostNotes v s).scanMin = s.scanMin := rfl
@[simp] theorem hostNotes_scanMax (v : Option Word) (s : State) : (hostNotes v s).scanMax = s.scanMax := rfl
@[simp] theorem hostNotes_hpBuf (v : Option Word) (s : State) : (hostNotes v s).hpBuf = s.hpBuf := rfl
@[simp] theorem hostNotes_hpIdx (v : Option Word) (s : State) : (hostNotes v s).hpIdx = s.hpIdx := rfl
@[simp] theorem hostNotes_errInfo (v : Option Word) (s : State) : (hostNotes v s).errInfo = s.errInfo := rfl
@[simp] theorem hostNotes_mem (v : Option Word) (s : State) : (hostNotes v s).mem = s.mem := rfl
@[simp] theorem hostNotes_epoch (v : Option Word) (s : State) : (hostNotes v s).epoch = s.epoch := rfl
@[simp] theorem hostNotes_turns (v : Option Word) (s : State) : (hostNotes v s).turns = s.turns := rfl
@[simp] theorem hostNotes_host (v : Option Word) (s : State) :
    (hostNotes v s).host = { s.host with reads := s.host.reads ++ v.toList } := rfl

/-! ### hostStops -/

@[simp] theorem hostStops_params (s : State) : (hostStops s).params = s.params := rfl
@[simp] theorem hostStops_imgDim (s : State) : (hostStops s).imgDim = s.imgDim := rfl
@[simp] theorem hostStops_cmdArg (s : State) : (hostStops s).cmdArg = s.cmdArg := rfl
@[simp] theorem hostStops_cmd (s : State) : (hostStops s).cmd = s.cmd := rfl
@[simp] theorem hostStops_status (s : State) : (hostStops s).status = s.status := rfl
@[simp] theorem hostStops_irqEn (s : State) : (hostStops s).irqEn = s.irqEn := rfl
@[simp] theorem hostStops_scanMin (s : State) : (hostStops s).scanMin = s.scanMin := rfl
@[simp] theorem hostStops_scanMax (s : State) : (hostStops s).scanMax = s.scanMax := rfl
@[simp] theorem hostStops_hpBuf (s : State) : (hostStops s).hpBuf = s.hpBuf := rfl
@[simp] theorem hostStops_hpIdx (s : State) : (hostStops s).hpIdx = s.hpIdx := rfl
@[simp] theorem hostStops_errInfo (s : State) : (hostStops s).errInfo = s.errInfo := rfl
@[simp] theorem hostStops_mem (s : State) : (hostStops s).mem = s.mem := rfl
@[simp] theorem hostStops_epoch (s : State) : (hostStops s).epoch = s.epoch := rfl
@[simp] theorem hostStops_turns (s : State) : (hostStops s).turns = s.turns := rfl
@[simp] theorem hostStops_host (s : State) : (hostStops s).host = { s.host with stopped := true } := rfl

/-! ### Reset -/

@[simp] theorem resetEngine_params (s : State) : (resetEngine s).params = s.params := rfl
@[simp] theorem resetEngine_status (s : State) : (resetEngine s).status = .reset := rfl
@[simp] theorem resetEngine_mem (s : State) : (resetEngine s).mem = [] := rfl
@[simp] theorem resetEngine_errInfo (s : State) : (resetEngine s).errInfo = 0 := rfl
@[simp] theorem resetEngine_epoch (s : State) : (resetEngine s).epoch = s.epoch + 1 := rfl
@[simp] theorem resetEngine_turns (s : State) : (resetEngine s).turns = s.turns := rfl
@[simp] theorem resetEngine_host (s : State) : (resetEngine s).host = s.host := rfl

end Sys2Proof.Machine
end

