-- ==== Sys2Proof/Laws/Memory.lean ====
section
/-! SUPPORT. The laws of the frame-buffer memory: what a read gives after a write, and that every write keeps the
canonical form and the bounds. Later proofs cite these and unfold no memory operation. -/

namespace Sys2Proof.Machine

/-- A read after a write: the word written at its address, the old content elsewhere. -/
@[simp] theorem find_store (m : Memory) (x y : Nat) (v : Word) :
    (m.store x v).find y = if y = x then some v else m.find y := by
  induction m with
  | nil => simp [Memory.store, Memory.find]
  | cons c m ih =>
    obtain ⟨a, w⟩ := c
    simp only [Memory.store]
    split_ifs with h1 h2 <;> simp only [Memory.find] <;> split_ifs <;> simp_all

/-- Every cell of a memory after a write is the written one or an old one. -/
theorem mem_store {m : Memory} {x : Nat} {v : Word} {c : Nat × Word} (h : c ∈ m.store x v) : c = (x, v) ∨ c ∈ m := by
  induction m with
  | nil => simpa [Memory.store] using h
  | cons e m ih =>
    obtain ⟨a, w⟩ := e
    simp only [Memory.store] at h
    split_ifs at h <;> simp only [List.mem_cons] at h ⊢ <;> tauto

/-- A write keeps the canonical form. -/
theorem store_wf {m : Memory} (h : m.wf) (x : Nat) (v : Word) : (m.store x v).wf := by
  induction m with
  | nil => simp [Memory.store, Memory.wf]
  | cons e m ih =>
    obtain ⟨a, w⟩ := e
    simp only [Memory.wf, List.pairwise_cons] at h
    have hm : Memory.wf m := h.2
    simp only [Memory.store]
    split_ifs with h1 h2
    · simp only [Memory.wf, List.pairwise_cons, List.mem_cons, forall_eq_or_imp]
      exact ⟨⟨h1, fun c hc => lt_trans h1 (h.1 c hc)⟩, h⟩
    · subst h2
      simpa only [Memory.wf, List.pairwise_cons] using h
    · simp only [Memory.wf, List.pairwise_cons]
      refine ⟨fun c hc => ?_, ih hm⟩
      rcases mem_store hc with rfl | hc
      · simp only
        omega
      · exact h.1 c hc

/-- Distinct elements of existing buffers have distinct keys. -/
theorem elemAddr_inj {b c j k : Nat} (hb : b < Config.nbuf) (hc : c < Config.nbuf) :
    elemAddr b j = elemAddr c k ↔ b = c ∧ j = k := by
  simp only [elemAddr, Config.nbuf] at *
  omega

/-- A run of writes keeps the canonical form. -/
theorem storeRun_wf (d : Nat) (vs : List Int) : ∀ (k : Nat) {m : Memory}, m.wf → (storeRun m d k vs).wf := by
  induction vs with
  | nil => exact fun _ _ h => h
  | cons v vs ih => exact fun k m h => ih (k + 1) (store_wf h _ _)

/-- Every cell after a run of writes is one of the run or an old one. -/
theorem mem_storeRun (d : Nat) (vs : List Int) : ∀ (k : Nat) {m : Memory} {c : Nat × Word},
    c ∈ storeRun m d k vs → (∃ j, k ≤ j ∧ j < k + vs.length ∧ c.1 = elemAddr d j) ∨ c ∈ m := by
  induction vs with
  | nil => exact fun _ _ _ h => .inr h
  | cons v vs ih =>
    intro k m c h
    rcases ih (k + 1) h with ⟨j, h1, h2, h3⟩ | h
    · exact .inl ⟨j, by omega, by simp only [List.length_cons]; omega, h3⟩
    · rcases mem_store h with rfl | h
      · exact .inl ⟨k, le_rfl, by simp, rfl⟩
      · exact .inr h

/-- What a run of writes leaves to be read at an element of an existing buffer. -/
theorem find_storeRun {b d : Nat} (hb : b < Config.nbuf) (hd : d < Config.nbuf) (vs : List Int) :
    ∀ (k : Nat) (m : Memory) (j : Nat), (storeRun m d k vs).find (elemAddr b j) =
      if b = d ∧ k ≤ j ∧ j < k + vs.length then some (u32 (vs.getD (j - k) 0)) else m.find (elemAddr b j) := by
  induction vs with
  | nil =>
    intro k m j
    have : ¬ (b = d ∧ k ≤ j ∧ j < k + ([] : List Int).length) := by simp
    rw [if_neg this]; rfl
  | cons v vs ih =>
    intro k m j
    simp only [storeRun, ih, find_store, elemAddr_inj hb hd, List.length_cons]
    by_cases h : b = d
    · rcases lt_trichotomy j k with hj | rfl | hj
      · rw [if_neg (by omega), if_neg (by omega), if_neg (by omega)]
      · rw [if_neg (by omega), if_pos ⟨h, rfl⟩, if_pos (by omega)]; simp
      · obtain ⟨i, rfl⟩ : ∃ i, j = k + 1 + i := ⟨j - (k + 1), by omega⟩
        have e1 : k + 1 + i - (k + 1) = i := by omega
        have e2 : k + 1 + i - k = i + 1 := by omega
        by_cases hi : i < vs.length
        · rw [if_pos (by omega), if_pos (by omega), e1, e2]; simp
        · rw [if_neg (by omega), if_neg (by omega), if_neg (by omega)]
    · simp [h]

/-- The word of an element after a command's output was committed to buffer `d`. -/
theorem elemWord_writeBuffer {b d : Nat} (hb : b < Config.nbuf) (hd : d < Config.nbuf) (out : List Int) (s : State)
    (k : Nat) : elemWord (writeBuffer d out s) b k =
      if b = d ∧ k < out.length then u32 (out.getD k 0) else elemWord s b k := by
  simp only [elemWord, writeBuffer_mem, writeBuffer_epoch, find_storeRun hb hd]
  by_cases h : b = d ∧ k < out.length
  · rw [if_pos h, if_pos (by omega)]; simp
  · rw [if_neg h, if_neg (by omega)]

/-- An element of the destination reads back the value committed to it, when that value is an S32 value. -/
theorem elem_writeBuffer {d : Nat} (hd : d < Config.nbuf) (out : List Int) (s : State) {k : Nat}
    (hk : k < out.length) (h : -2 ^ 31 ≤ out.getD k 0 ∧ out.getD k 0 ≤ 2 ^ 31 - 1) :
    elem (writeBuffer d out s) d k = out.getD k 0 := by
  rw [elem, elemWord_writeBuffer hd hd, if_pos ⟨rfl, hk⟩, s32, u32, BitVec.toInt_ofInt]
  exact Int.bmod_eq_of_le (by omega) (by omega)

/-- Every element is an S32 value. -/
theorem elem_isS32 (s : State) (b k : Nat) : -2 ^ 31 ≤ elem s b k ∧ elem s b k ≤ 2 ^ 31 - 1 := by
  have h1 := BitVec.le_toInt (elemWord s b k)
  have h2 := BitVec.toInt_lt (x := elemWord s b k)
  simp only [elem, s32]
  omega

/-- An element depends on nothing but the memory and the epoch. -/
theorem elemWord_congr {s t : State} (hm : t.mem = s.mem) (he : t.epoch = s.epoch) (b k : Nat) :
    elemWord t b k = elemWord s b k := by
  rw [elemWord, elemWord, hm, he]

end Sys2Proof.Machine
end

