-- ==== Sys2Proof/Laws/Ops.lean ====
section
/-! SUPPORT. One lemma per shared operation that says everything it can do; the provers cite these instead of
unfolding the operations. -/

namespace Sys2Proof.Machine

/-! ### The common checks -/

theorem imageCheck_eq_none {bufs : List Nat} {s : State} :
    imageCheck bufs s = none ↔ (∀ b ∈ bufs, b < Config.nbuf) ∧ validDims s := by
  have ha : bufs.all (fun b => decide (isBuffer b)) = false ↔ ¬ ∀ b ∈ bufs, b < Config.nbuf := by
    rw [← Bool.not_eq_true, List.all_eq_true]
    simp only [decide_eq_true_eq]
  simp only [imageCheck, ha]
  by_cases hb : ∀ b ∈ bufs, b < Config.nbuf
  · by_cases hv : validDims s
    · rw [if_neg (not_not_intro hb), if_neg (not_not_intro hv)]
      exact ⟨fun _ => ⟨hb, hv⟩, fun _ => rfl⟩
    · rw [if_neg (not_not_intro hb), if_pos hv]
      exact ⟨fun h => (nomatch h), fun h => absurd h.2 hv⟩
  · rw [if_pos hb]
    exact ⟨fun h => (nomatch h), fun h => absurd h.1 hb⟩

/-- A command whose buffers exist and whose dimensions are valid runs its body. -/
theorem runChecked_ok {bufs : List Nat} {s : State} (hb : ∀ b ∈ bufs, b < Config.nbuf) (hv : validDims s)
    (body : State → State) : runChecked bufs body s = body s := by
  rw [runChecked, imageCheck_eq_none.2 ⟨hb, hv⟩]

/-- A command that names a buffer that does not exist fails with BAD_BUFFER. -/
theorem runChecked_badBuffer {bufs : List Nat} {b : Nat} (hb : b ∈ bufs) (hn : Config.nbuf ≤ b)
    (body : State → State) (s : State) : runChecked bufs body s = commandFail .badBuffer 0 s := by
  have h : bufs.all (fun b => decide (isBuffer b)) = false := by
    rw [List.all_eq_false]
    exact ⟨b, hb, by simpa using hn⟩
  rw [runChecked, imageCheck, if_pos h]

/-- A command whose buffers exist but whose dimensions are not valid fails with INVALID_INPUT. -/
theorem runChecked_invalid {bufs : List Nat} {s : State} (hb : ∀ b ∈ bufs, b < Config.nbuf) (hv : ¬ validDims s)
    (body : State → State) : runChecked bufs body s = commandFail .invalidInput 0 s := by
  have h : ¬ bufs.all (fun b => decide (isBuffer b)) = false := by
    rw [Bool.not_eq_false, List.all_eq_true]
    exact fun b h => decide_eq_true (hb b h)
  rw [runChecked, imageCheck, if_neg h, if_pos hv]

/-- Everything the common checks can do. -/
theorem runChecked_cases (bufs : List Nat) (body : State → State) (s : State) :
    ((∀ b ∈ bufs, b < Config.nbuf) ∧ validDims s ∧ runChecked bufs body s = body s) ∨
    ((∃ b ∈ bufs, Config.nbuf ≤ b) ∧ runChecked bufs body s = commandFail .badBuffer 0 s) ∨
    ((∀ b ∈ bufs, b < Config.nbuf) ∧ ¬ validDims s ∧ runChecked bufs body s = commandFail .invalidInput 0 s) := by
  by_cases hb : ∀ b ∈ bufs, b < Config.nbuf
  · by_cases hv : validDims s
    · exact .inl ⟨hb, hv, runChecked_ok hb hv body⟩
    · exact .inr (.inr ⟨hb, hv, runChecked_invalid hb hv body⟩)
  · push Not at hb
    obtain ⟨b, hb, hn⟩ := hb
    exact .inr (.inl ⟨⟨b, hb, hn⟩, runChecked_badBuffer hb hn body s⟩)

/-! ### The host port and the register block -/

/-- Everything a host-port read can do. -/
theorem portRead_cases (s : State) :
    (s.status.busy = true ∧ portRead s = (0, setBusyViol s)) ∨
    (s.status.busy = false ∧ ¬ portInRange s ∧ portRead s = (0, setHpErr s)) ∨
    (s.status.busy = false ∧ portInRange s ∧
      portRead s = (elemWord s s.hpBuf.toNat s.hpIdx.toNat, { s with hpIdx := s.hpIdx + 1 })) := by
  unfold portRead
  cases hb : s.status.busy
  · by_cases hr : portInRange s
    · exact .inr (.inr ⟨rfl, hr, by rw [if_neg (by simp), if_neg (not_not_intro hr)]⟩)
    · exact .inr (.inl ⟨rfl, hr, by rw [if_neg (by simp), if_pos hr]⟩)
  · exact .inl ⟨rfl, by simp⟩

/-- Everything a host-port write can do. -/
theorem portWrite_cases (v : Word) (s : State) :
    (s.status.busy = true ∧ portWrite v s = setBusyViol s) ∨
    (s.status.busy = false ∧ ¬ portInRange s ∧ portWrite v s = setHpErr s) ∨
    (s.status.busy = false ∧ portInRange s ∧ portWrite v s = { s with
      mem := s.mem.store (elemAddr s.hpBuf.toNat s.hpIdx.toNat) v, hpIdx := s.hpIdx + 1 }) := by
  unfold portWrite
  cases hb : s.status.busy
  · by_cases hr : portInRange s
    · exact .inr (.inr ⟨rfl, hr, by rw [if_neg (by simp), if_neg (not_not_intro hr)]⟩)
    · exact .inr (.inl ⟨rfl, hr, by rw [if_neg (by simp), if_pos hr]⟩)
  · exact .inl ⟨rfl, by simp⟩

/-- A read of the block is a host-port read or leaves the state alone. -/
theorem hostRead_cases (off : Nat) (s : State) :
    (hostRead off s).2 = s ∨ (regAt off = some .hpData ∧ hostRead off s = portRead s) := by
  unfold hostRead
  rcases h : regAt off with _ | r
  · exact .inl rfl
  · cases r <;> simp

/-- Everything a write to the block can do: nothing; BUSYVIOL while busy; or the write of one register. -/
theorem hostWrite_cases (off : Nat) (v : Word) (s : State) :
    hostWrite off v s = s ∨
    (s.status.busy = true ∧ hostWrite off v s = setBusyViol s) ∨
    (s.status.busy = false ∧ hostWrite off v s = { s with imgDim := v }) ∨
    (s.status.busy = false ∧ hostWrite off v s = { s with cmdArg := v }) ∨
    (s.status.busy = false ∧ regAt off = some .cmd ∧ hostWrite off v s = issue v s) ∨
    (regAt off = some .status ∧ hostWrite off v s = { s with status := s.status.clearOnes v }) ∨
    hostWrite off v s = { s with irqEn := .ofWord v } ∨
    hostWrite off v s = { s with hpBuf := BitVec.ofNat 4 (bitField v 3 0) } ∨
    hostWrite off v s = { s with hpIdx := v } ∨
    hostWrite off v s = portWrite v s := by
  unfold hostWrite
  rcases h : regAt off with _ | r
  · exact .inl rfl
  · cases r <;> cases hb : s.status.busy <;> simp [regWrite, unlessBusy, hb]

/-- A bus read is a register read, or leaves the state alone. -/
theorem busRead_cases (addr size : Nat) (s : State) :
    (busRead addr size s).2 = s ∨ ∃ off, (busRead addr size s).2 = (hostRead off s).2 := by
  unfold busRead
  rcases blockOffset s.params addr with _ | off
  · exact .inl rfl
  · by_cases h : size = 4 ∧ off % 4 = 0
    · exact .inr ⟨off, by simp [h]⟩
    · exact .inl (by simp [h])

/-- A bus write is a register write, or leaves the state alone. -/
theorem busWrite_cases (addr : Nat) (lanes : List Byte) (s : State) :
    busWrite addr lanes s = s ∨ ∃ off v, busWrite addr lanes s = hostWrite off v s := by
  unfold busWrite
  rcases blockOffset s.params addr with _ | off
  · exact .inl rfl
  · rcases ofLanes lanes with _ | v
    · exact .inl rfl
    · by_cases h : off % 4 = 0
      · exact .inr ⟨off, v, by simp [h]⟩
      · exact .inl (by simp [h])

/-- Everything a host turn can do: one access of the block or none, and then a move of the host agent, which touches
no state of the engine. -/
theorem hostTurn_cases (s : State) :
    ∃ u h, hostTurn s = { u with host := h } ∧
      (u = s ∨ (∃ off, u = (hostRead off s).2) ∨ ∃ off v, u = hostWrite off v s) := by
  unfold hostTurn
  by_cases hs : s.host.stopped
  · exact ⟨s, s.host, by simp [hs], .inl rfl⟩
  rw [if_neg hs]
  split
  · exact ⟨s, s.host, rfl, .inl rfl⟩
  · next addr size rest _ =>
    refine ⟨(busRead addr size s).2, _, rfl, ?_⟩
    rcases busRead_cases addr size s with h | ⟨off, h⟩
    · exact .inl h
    · exact .inr (.inl ⟨off, h⟩)
  · next addr lanes rest _ =>
    refine ⟨busWrite addr lanes s, _, rfl, ?_⟩
    rcases busWrite_cases addr lanes s with h | ⟨off, v, h⟩
    · exact .inl h
    · exact .inr (.inr ⟨off, v, h⟩)
  · split_ifs
    · exact ⟨(hostRead 0x18 s).2, (hostRead 0x18 s).2.host, rfl, .inr (.inl ⟨0x18, rfl⟩)⟩
    · exact ⟨(hostRead 0x18 s).2, _, rfl, .inr (.inl ⟨0x18, rfl⟩)⟩
  · split_ifs
    · exact ⟨(hostRead 0x18 s).2, _, rfl, .inr (.inl ⟨0x18, rfl⟩)⟩
    · exact ⟨(hostRead 0x18 s).2, _, rfl, .inr (.inl ⟨0x18, rfl⟩)⟩

end Sys2Proof.Machine
end

