-- ==== Sys2Proof/Laws/Image.lean ====
section
/-! SUPPORT. The laws of the row-major arrays every image command computes, and the inversion of `exec`: what a
command can do, said once. -/

namespace Sys2Proof.Machine

/-! ### Row-major arrays -/

@[simp] theorem length_rowMajor (rows cols : Nat) (f : Nat → Nat → Int) : (rowMajor rows cols f).length = rows * cols := by
  simp [rowMajor]

@[simp] theorem length_sourceOf (s : State) (a : Nat) : (sourceOf s a).length = s.imgH * s.imgW := by
  simp [sourceOf]

@[simp] theorem length_magnitudesOf (s : State) (a b : Nat) : (magnitudesOf s a b).length = s.imgH * s.imgW := by
  simp [magnitudesOf]

@[simp] theorem length_medianOutput (s : State) (a : Nat) : (medianOutput s a).length = s.imgH * s.imgW := by
  simp [medianOutput, imageOf]

@[simp] theorem length_convOutput (K : Kernel) (s : State) (a : Nat) : (convOutput K s a).length = s.imgH * s.imgW := by
  simp [convOutput, imageOf]

@[simp] theorem length_padOutput (s : State) (a : Nat) : (padOutput s a).length = (s.imgH + 2) * (s.imgW + 2) := by
  simp [padOutput]

@[simp] theorem length_windowOutput (s : State) (a : Nat) : (windowOutput s a).length = 9 := by
  simp [windowOutput]

/-- Element (i, j) lies inside the array. -/
theorem index_lt {rows cols i j : Nat} (hi : i < rows) (hj : j < cols) : i * cols + j < rows * cols := by
  have : (i + 1) * cols ≤ rows * cols := Nat.mul_le_mul_right _ hi
  rw [Nat.add_mul] at this
  omega

/-- The row and the column of an index. -/
theorem index_div_mod {cols i j : Nat} (hj : j < cols) : (i * cols + j) / cols = i ∧ (i * cols + j) % cols = j := by
  constructor
  · rw [Nat.add_comm, Nat.add_mul_div_right _ _ (by omega), Nat.div_eq_of_lt hj, Nat.zero_add]
  · rw [Nat.add_comm, Nat.add_mul_mod_self_right, Nat.mod_eq_of_lt hj]

/-- Element k of a row-major array. -/
theorem getD_rowMajor {rows cols k : Nat} (hk : k < rows * cols) (f : Nat → Nat → Int) :
    (rowMajor rows cols f).getD k 0 = f (k / cols) (k % cols) := by
  simp [rowMajor, List.getD_eq_getElem?_getD, hk]

/-- Element (i, j) of a row-major array. -/
theorem getD_rowMajor_index {rows cols i j : Nat} (hi : i < rows) (hj : j < cols) (f : Nat → Nat → Int) :
    (rowMajor rows cols f).getD (i * cols + j) 0 = f i j := by
  rw [getD_rowMajor (index_lt hi hj), (index_div_mod hj).1, (index_div_mod hj).2]

theorem getD_sourceOf {s : State} {a k : Nat} (hk : k < s.imgH * s.imgW) : (sourceOf s a).getD k 0 = elem s a k := by
  simp [sourceOf, List.getD_eq_getElem?_getD, hk]

/-! ### What a command can do -/

/-- Every layout of a command with valid dimensions fits the frame buffer (R61). -/
theorem layouts_fit {s : State} (hv : validDims s) :
    s.imgH * s.imgW ≤ capOf s.params ∧ (s.imgH + 2) * (s.imgW + 2) ≤ capOf s.params ∧ 9 ≤ capOf s.params := by
  obtain ⟨h1, h2, h3, h4⟩ := hv
  refine ⟨Nat.mul_le_mul (by omega) (by omega), Nat.mul_le_mul (by omega) (by omega), ?_⟩
  calc 9 = 3 * 3 := rfl
    _ ≤ capOf s.params := Nat.mul_le_mul (by omega) (by omega)

/-- The ways a command can end: a failure with a cause (and an info only for OVERFLOW), NOP's `done()`, or a commit of an
output no longer than the frame buffer to an existing destination, with or without a normalization's DEGEN and
SCAN. -/
inductive CommandEnds (i : Instr) (s : State) : State → Prop where
  | fails (code : ErrCode) (info : Nat) (hc : code ≠ .none) (hi : code ≠ .overflow → info = 0) :
      CommandEnds i s (commandFail code info s)
  | nothing (hi : i = .nop) : CommandEnds i s (commandDone s)
  | commits (d : Nat) (out : List Int) (hd : i.buffers.head? = some d) (hn : d < Config.nbuf)
      (hl : out.length ≤ capOf s.params) (hv : validDims s) :
      CommandEnds i s (commandDone (writeBuffer d out s))
  | normalizes (d : Nat) (out : List Int) (g : Bool) (lo hi : BitVec 64) (hd : i.buffers.head? = some d)
      (hn : d < Config.nbuf) (hl : out.length ≤ capOf s.params) (hv : validDims s) :
      CommandEnds i s (commitNormalized d out g lo hi s)

/-- The common checks, before a body that ends in one of these ways. -/
theorem runChecked_ends {i : Instr} {d : Nat} {bufs : List Nat} {body : State → State} {s : State}
    (h : d < Config.nbuf → validDims s → CommandEnds i s (body s)) :
    CommandEnds i s (runChecked (d :: bufs) body s) := by
  rcases runChecked_cases (d :: bufs) body s with ⟨hb, hv, e⟩ | ⟨-, e⟩ | ⟨-, -, e⟩ <;> rw [e]
  · exact h (hb d (by simp)) hv
  · exact .fails _ _ (by simp) (by simp)
  · exact .fails _ _ (by simp) (by simp)

theorem convolve_ends {i : Instr} (K : Kernel) {d : Nat} (a : Nat) {s : State} (hd : i.buffers.head? = some d) :
    CommandEnds i s (convolve K d a s) := by
  refine runChecked_ends fun hn hv => ?_
  rcases firstOverflow (convOutput K s a) with _ | k
  · exact .commits d _ hd hn (by simpa using (layouts_fit hv).1) hv
  · exact .fails _ _ (by simp) (by simp)

/-- Every command answers a next state, in one of the four ways. -/
theorem exec_ends (i : Instr) (s : State) : ∃ t, exec i s = .next t ∧ CommandEnds i s t := by
  cases i with
  | nop => exact ⟨_, rfl, .nothing rfl⟩
  | pad d a =>
    exact ⟨_, rfl, runChecked_ends fun hn hv => .commits d _ rfl hn (by simpa using (layouts_fit hv).2.1) hv⟩
  | median d a =>
    exact ⟨_, rfl, runChecked_ends fun hn hv => .commits d _ rfl hn (by simpa using (layouts_fit hv).1) hv⟩
  | convH d a => exact ⟨_, rfl, convolve_ends _ a rfl⟩
  | convV d a => exact ⟨_, rfl, convolve_ends _ a rfl⟩
  | convD45 d a => exact ⟨_, rfl, convolve_ends _ a rfl⟩
  | convD135 d a => exact ⟨_, rfl, convolve_ends _ a rfl⟩
  | norm d a =>
    exact ⟨_, rfl, runChecked_ends fun hn hv =>
      .normalizes d _ _ _ _ rfl hn (by simpa using (layouts_fit hv).1) hv⟩
  | magnorm d a b =>
    exact ⟨_, rfl, runChecked_ends fun hn hv =>
      .normalizes d _ _ _ _ rfl hn (by simpa using (layouts_fit hv).1) hv⟩
  | window d a =>
    refine ⟨_, rfl, runChecked_ends fun hn hv => ?_⟩
    split_ifs
    · exact .commits d _ rfl hn (by simpa using (layouts_fit hv).2.2) hv
    · exact .fails _ _ (by simp) (by simp)

/-- The completion step answers a next state: it fails with a cause, or it is the command's own end. -/
theorem complete_ends (s : State) : ∃ t, complete s = .next t ∧
    ((∃ code, code ≠ .none ∧ code ≠ .overflow ∧ t = commandFail code 0 s) ∨
      ∃ i, decode s.cmd = .instr i ∧ exec i s = .next t ∧ CommandEnds i s t) := by
  unfold complete
  rcases h : decode s.cmd with i | _ | _
  · obtain ⟨t, h1, h2⟩ := exec_ends i s
    exact ⟨t, h1, .inr ⟨i, rfl, h1, h2⟩⟩
  · exact ⟨_, rfl, .inl ⟨.illegalOp, by simp, by simp, rfl⟩⟩
  · exact ⟨_, rfl, .inl ⟨.shapeMismatch, by simp, by simp, rfl⟩⟩

end Sys2Proof.Machine
end

