-- ==== Sys2Proof/Laws/PerInstr.lean ====
section
/-! SUPPORT. The fields of every command's encoding, one lemma per constructor (spec/30_encoding.md R90, R95). -/

namespace Sys2Proof.Laws

/-- The fields of a word of the encoder, when every argument fits its field. -/
theorem assemble_fields {op ksel d a b : Nat} (h0 : op < 16) (h1 : ksel < 16) (h2 : d < 16) (h3 : a < 16)
    (h4 : b < 16) :
    rsvdField (assemble op ksel d a b) = 0 ∧ opField (assemble op ksel d a b) = op ∧
    kselField (assemble op ksel d a b) = ksel ∧ dstField (assemble op ksel d a b) = d ∧
    srcaField (assemble op ksel d a b) = a ∧ srcbField (assemble op ksel d a b) = b := by
  simp only [rsvdField, opField, kselField, dstField, srcaField, srcbField, bitField, assemble,
    BitVec.toNat_ofNat]
  norm_num
  omega

/-- What R95 puts in the fields of a command's word: OP, KSEL, DST, SRCA, SRCB. -/
def EncodedFields.expected : Instr → Nat × Nat × Nat × Nat × Nat
  | .nop => (0, 0, 0, 0, 0)
  | .pad d a => (1, 0, d, a, 0)
  | .median d a => (2, 0, d, a, 0)
  | .convH d a => (3, 0, d, a, 0)
  | .convV d a => (3, 1, d, a, 0)
  | .convD45 d a => (3, 2, d, a, 0)
  | .convD135 d a => (3, 3, d, a, 0)
  | .norm d a => (4, 0, d, a, 0)
  | .magnorm d a b => (5, 0, d, a, b)
  | .window d a => (6, 0, d, a, 0)

/-- The word of a well-formed command has RSVD = 0 and the fields R95 gives. -/
def EncodedFields.Statement (i : Instr) : Prop :=
  i.wf = true → rsvdField (encode i) = 0 ∧
    (opField (encode i), kselField (encode i), dstField (encode i), srcaField (encode i), srcbField (encode i))
      = EncodedFields.expected i

theorem EncodedFields.two {op ksel d a : Nat} (h0 : op < 16) (h1 : ksel < 16)
    (h : (fitsField d && fitsField a) = true) :
    rsvdField (assemble op ksel d a 0) = 0 ∧
    (opField (assemble op ksel d a 0), kselField (assemble op ksel d a 0), dstField (assemble op ksel d a 0),
      srcaField (assemble op ksel d a 0), srcbField (assemble op ksel d a 0)) = (op, ksel, d, a, 0) := by
  simp only [fitsField, Bool.and_eq_true, decide_eq_true_eq] at h
  obtain ⟨e0, e1, e2, e3, e4, e5⟩ := assemble_fields h0 h1 h.1 h.2 (b := 0) (by omega)
  exact ⟨e0, by rw [e1, e2, e3, e4, e5]⟩

theorem EncodedFields.nop : EncodedFields.Statement .nop := by unfold EncodedFields.Statement; decide

theorem EncodedFields.pad (d a : Nat) : EncodedFields.Statement (.pad d a) :=
  EncodedFields.two (by decide) (by decide)

theorem EncodedFields.median (d a : Nat) : EncodedFields.Statement (.median d a) :=
  EncodedFields.two (by decide) (by decide)

theorem EncodedFields.convH (d a : Nat) : EncodedFields.Statement (.convH d a) :=
  EncodedFields.two (by decide) (by decide)

theorem EncodedFields.convV (d a : Nat) : EncodedFields.Statement (.convV d a) :=
  EncodedFields.two (by decide) (by decide)

theorem EncodedFields.convD45 (d a : Nat) : EncodedFields.Statement (.convD45 d a) :=
  EncodedFields.two (by decide) (by decide)

theorem EncodedFields.convD135 (d a : Nat) : EncodedFields.Statement (.convD135 d a) :=
  EncodedFields.two (by decide) (by decide)

theorem EncodedFields.norm (d a : Nat) : EncodedFields.Statement (.norm d a) :=
  EncodedFields.two (by decide) (by decide)

theorem EncodedFields.magnorm (d a b : Nat) : EncodedFields.Statement (.magnorm d a b) := by
  intro h
  simp only [Instr.wf, fitsField, Bool.and_eq_true, decide_eq_true_eq] at h
  obtain ⟨e0, e1, e2, e3, e4, e5⟩ :=
    assemble_fields (op := 5) (ksel := 0) (by omega) (by omega) h.1.1 h.1.2 h.2
  exact ⟨e0, by simp only [encode, EncodedFields.expected, e1, e2, e3, e4, e5]⟩

theorem EncodedFields.window (d a : Nat) : EncodedFields.Statement (.window d a) :=
  EncodedFields.two (by decide) (by decide)

end Sys2Proof.Laws
end

