-- ==== Sys2Proof/Tests/Slice0.lean ====
section
/-! SUPPORT. Tests of the model. Every expected value is the spec's own (spec/95_test_vectors.md, by vector name, or
spec/30_encoding.md), none is the model's answer. Then, for every obligation with hypotheses, a witness that meets
them. -/

open Sys2Proof Sys2Proof.Machine Sys2Proof.Claims

namespace Sys2Proof.Tests

/-! ### Ill-formed terms are refused (R93) -/

theorem test_wf_pad : (Instr.pad 16 0).wf = false ∧ (Instr.pad 0 16).wf = false := by decide
theorem test_wf_median : (Instr.median 16 0).wf = false ∧ (Instr.median 0 16).wf = false := by decide
theorem test_wf_convH : (Instr.convH 16 0).wf = false ∧ (Instr.convH 0 16).wf = false := by decide
theorem test_wf_convV : (Instr.convV 16 0).wf = false ∧ (Instr.convV 0 16).wf = false := by decide
theorem test_wf_convD45 : (Instr.convD45 16 0).wf = false ∧ (Instr.convD45 0 16).wf = false := by decide
theorem test_wf_convD135 : (Instr.convD135 16 0).wf = false ∧ (Instr.convD135 0 16).wf = false := by decide
theorem test_wf_norm : (Instr.norm 16 0).wf = false ∧ (Instr.norm 0 16).wf = false := by decide
theorem test_wf_magnorm :
    (Instr.magnorm 16 0 0).wf = false ∧ (Instr.magnorm 0 16 0).wf = false ∧ (Instr.magnorm 0 0 16).wf = false := by
  decide
theorem test_wf_window : (Instr.window 16 0).wf = false ∧ (Instr.window 0 16).wf = false := by decide

/-! ### Decoding: words written out from the fields of R90 to R95: RSVD, SRCB, SRCA, DST, KSEL, OP -/

theorem test_decode_nop : decode 0b000000000000_0000_0000_0000_0000_0000 = .instr .nop := by decide
theorem test_decode_pad : decode 0b000000000000_0000_0010_0001_0000_0001 = .instr (.pad 1 2) := by decide
theorem test_decode_median : decode 0b000000000000_0000_1111_0100_0000_0010 = .instr (.median 4 15) := by decide
theorem test_decode_convH : decode 0b000000000000_0000_0001_0010_0000_0011 = .instr (.convH 2 1) := by decide
theorem test_decode_convV : decode 0b000000000000_0000_0001_0011_0001_0011 = .instr (.convV 3 1) := by decide
theorem test_decode_convD45 : decode 0b000000000000_0000_0001_0101_0010_0011 = .instr (.convD45 5 1) := by decide
theorem test_decode_convD135 : decode 0b000000000000_0000_0001_0110_0011_0011 = .instr (.convD135 6 1) := by decide
theorem test_decode_norm : decode 0b000000000000_0000_0010_0111_0000_0100 = .instr (.norm 7 2) := by decide
theorem test_decode_magnorm : decode 0b000000000000_0011_0010_0100_0000_0101 = .instr (.magnorm 4 2 3) := by decide
theorem test_decode_window : decode 0b000000000000_0000_0000_0111_0000_0110 = .instr (.window 7 0) := by decide

/-- The illegal words of spec/95_test_vectors.md, "Errors and precedence". -/
theorem test_decode_illegal :
    ([0x00000007, 0x0000000F, 0x00100000, 0x80000102, 0x00000010, 0x00000100, 0x00010102, 0x00000111, 0x00000116,
      0x00000115, 0x00010043, 0x00000114].map decode) = List.replicate 12 .illegalOp := by decide

/-- Its CONV words with a KSEL that names no kernel. -/
theorem test_decode_shape_mismatch :
    ([0x00000043, 0x000001F3, 0x00000943].map decode) = List.replicate 3 .shapeMismatch := by decide

/-- The byte lanes of a word, low byte first (V-REG-7), and a word from its lanes. -/
theorem test_lanes : toLanes 0x50450001 = [0x01, 0x00, 0x45, 0x50] ∧
    decodeLanes [0x03, 0x12, 0x00, 0x00] = some (.instr (.convH 2 1)) ∧ decodeLanes [0x03, 0x12, 0x00] = none := by
  decide

theorem test_decode_table_word : decodeTableWord 32 0x00032405 = some (.magnorm 4 2 3) ∧
    decodeTableWord 32 0x00000007 = none ∧ decodeTableWord 32 0x00000043 = none := by decide

/-! ### One step on a small state -/

/-- The sample engine of spec/95_test_vectors.md: HMAX = WMAX = 16. -/
def params16 : Params := { hmax := 16, wmax := 16, engineBase := 0x1000 }

/-- After reset, with IMG_DIM for an h×w image. -/
def small (h w : Nat) : State := { State.resetWith params16 with imgDim := BitVec.ofNat 32 (w * 2 ^ 16 + h) }

/-- `s` with `vs` loaded from element 0 of buffer `b`. -/
def load (b : Nat) (vs : List Int) (s : State) : State := writeBuffer b vs s

/-- The state after the command `w` is issued and has completed. -/
def ran (w : Nat) (s : State) : State :=
  match step (s.withFetchWord 32 w) with
  | .next t => t
  | _ => s

/-- What a vector lists: the first elements of a buffer, and STATUS. -/
def out (s : State) (b n : Nat) : List Int × Word := ((List.range n).map (elem s b), s.status.toWord)

/-- [[1, 2], [3, 4]] in b0. -/
def square : State := load 0 [1, 2, 3, 4] (small 2 2)

/-- V-REG-5 -/
theorem test_nop : out (ran 0x000 (small 0 0)) 0 0 = ([], 2) := by decide +kernel

/-- V-PAD, the 2×2 image of 40_padding_window.md; in place too -/
theorem test_pad : out (ran 0x101 square) 1 16 = ([0, 0, 0, 0, 0, 1, 2, 0, 0, 3, 4, 0, 0, 0, 0, 0], 2) ∧
    out (ran 0x001 square) 0 16 = ([0, 0, 0, 0, 0, 1, 2, 0, 0, 3, 4, 0, 0, 0, 0, 0], 2) := by decide +kernel

/-- V-WIN-4 -/
theorem test_window : out (ran 0x706 (load 0 [1, 2, 3, 4, 5, 6] { small 2 3 with cmdArg := 0x00030001 })) 7 9 =
    ([0, 0, 0, 2, 3, 0, 5, 6, 0], 2) := by decide +kernel

/-- V-WIN-5, V-WIN-7 -/
theorem test_window_fails : out (ran 0x706 { square with cmdArg := 0x00010003 }) 0 0 = ([], 0x56) ∧
    out (ran 0x706 (small 0 0)) 0 0 = ([], 0x46) := by decide +kernel

/-- V-MED-3 -/
theorem test_median : out (ran 0x102 (load 0 [1, 2, 3, 4, 5, 6, 7, 8, 9] (small 3 3))) 1 9 =
    ([0, 2, 0, 2, 5, 3, 0, 5, 0], 2) := by decide +kernel

/-- V-MED-5: negative values -/
theorem test_median_negative : out (ran 0x102 (load 0 (List.replicate 9 (-5)) (small 3 3))) 1 9 =
    ([0, -5, 0, -5, -5, -5, 0, -5, 0], 2) := by decide +kernel

/-- V-CONV-1 -/
theorem test_convH : out (ran 0x103 square) 1 4 = ([8, -5, 10, -7], 2) := by decide +kernel

/-- V-CONV-9: the exact sum 2^32 at index 1 -/
theorem test_convH_overflow :
    out (ran 0x103 (load 0 [-2147483648, 0] (small 1 2))) 0 2 = ([-2147483648, 0], 0x66) ∧
    (ran 0x103 (load 0 [-2147483648, 0] (small 1 2))).errInfo = 1 := by decide +kernel

/-- V-CONV-16: in place -/
theorem test_convV : out (ran 0x013 square) 0 4 = ([10, 11, -4, -5], 2) := by decide +kernel

/-- V-CONV-3 -/
theorem test_convD45 : out (ran 0x123 square) 1 4 = ([1, 11, -9, 1], 2) := by decide +kernel

/-- V-CONV-4 -/
theorem test_convD135 : out (ran 0x133 square) 1 4 = ([-13, -3, -3, 7], 2) := by decide +kernel

/-- V-NORM-7, with SCAN in two's complement -/
theorem test_norm : out (ran 0x104 (load 0 [-400, 0, 400] (small 1 3))) 1 3 = ([0, 127, 255], 2) ∧
    (ran 0x104 (load 0 [-400, 0, 400] (small 1 3))).scanMin = 0xFFFFFFFFFFFFFE70 ∧
    (ran 0x104 (load 0 [-400, 0, 400] (small 1 3))).scanMax = 0x190 := by decide +kernel

/-- V-NORM-5: degenerate -/
theorem test_norm_degenerate : out (ran 0x104 (load 0 [7] (small 1 1))) 1 1 = ([0], 0xA) := by decide +kernel

/-- V-MAG-7: a = b, magnitudes √2, 2√2, 3√2 -/
theorem test_magnorm : out (ran 0x205 (load 0 [1, 2, 3] (small 1 3))) 2 3 = ([0, 127, 255], 2) ∧
    (ran 0x205 (load 0 [1, 2, 3] (small 1 3))).scanMin = 0x3FF6A09E667F3BCD ∧
    (ran 0x205 (load 0 [1, 2, 3] (small 1 3))).scanMax = 0x4010F876CCDF6CD9 := by decide +kernel

/-- V-MAG-6: degenerate from different gradients -/
theorem test_magnorm_degenerate : out (ran 0x10205 (load 1 [4, 3] (load 0 [3, 4] (small 1 2)))) 2 2 = ([0, 0], 0xA) := by
  decide +kernel

/-- The command placed by `withFetchWord` is the one the step after reset runs. -/
theorem test_fetch : step (State.reset.withFetchWord 32 0) = exec .nop (State.reset.withFetchWord 32 0) := by rfl

/-! ### binary64 (V-MAG-2, V-MAG-4, V-E2E-2, P2, and 2^53 + 1, halfway between two doubles) -/

theorem test_f64_sqrt : f64Bits (f64Sqrt (f64 5)) = 0x4001E3779B97F4A8 ∧
    f64Bits (f64Sqrt (f64 (2 ^ 63))) = 0x41E6A09E667F3BCD ∧ f64Bits (f64Sqrt (f64 180000)) = 0x407A8439A01D1A14 ∧
    f64Bits (f64Sqrt (f64 200000)) = 0x407BF36AE31D6E46 ∧ fix52 (f64Sqrt (f64 5)) = 10070354910243152 := by
  decide +kernel

theorem test_f64_ties : fix52 (f64 (2 ^ 53 + 1)) = 2 ^ 53 * 2 ^ 52 ∧ fix52 (f64 (2 ^ 53 + 3)) = (2 ^ 53 + 4) * 2 ^ 52 := by
  decide +kernel

/-! ### The host -/

/-- V-REG-2: what the registers keep of a write of all ones -/
theorem test_register_widths :
    (hostRead 0x1C (hostWrite 0x1C 0xFFFFFFFF (small 0 0))).1 = 7 ∧
    (hostRead 0x30 (hostWrite 0x30 0xFFFFFFFF (small 0 0))).1 = 0xF ∧
    (hostRead 0x34 (hostWrite 0x34 0xFFFFFFFF (small 0 0))).1 = 0xFFFFFFFF ∧
    (hostRead 0x0C (hostWrite 0x0C 0xFFFFFFFF (small 0 0))).1 = 0xFFFFFFFF ∧
    (hostRead 0x08 (small 0 0)).1 = 0x00100010 := by decide +kernel

/-- V-REG-6: accesses of another width, and at an odd offset -/
theorem test_access_width : busRead 0x1000 2 (small 0 0) = (some 0, small 0 0) ∧
    busRead 0x1002 4 (small 0 0) = (some 0, small 0 0) ∧ busWrite 0x100C [5, 0] (small 1 1) = small 1 1 := by
  decide +kernel

/-- V-HP-2: the host port out of range -/
theorem test_port_out_of_range : (portWrite 1 { small 0 0 with hpBuf := 9 }).status.toWord = 0x200 ∧
    (portWrite 1 { small 0 0 with hpBuf := 9 }).hpIdx = 0 := by decide +kernel

/-- V-REG-4: acknowledging a failure -/
theorem test_acknowledge : (ran 7 (small 0 0)).status.toWord = 0x16 ∧
    (hostWrite 0x18 4 (ran 7 (small 0 0))).status.toWord = 0x12 ∧
    (hostWrite 0x18 2 (hostWrite 0x18 4 (ran 7 (small 0 0)))).status.toWord = 0x10 := by decide +kernel

/-- The accesses the programs of L3 list for `setdim`, `setarg`, `clear`, a command and `load`. -/
theorem test_statements : stmtSetdim 0 3 4 = stmtWr 0 0x0C 0x00040003 ∧ stmtSetarg 0 3 1 = stmtWr 0 0x10 0x00010003 ∧
    stmtClear 0 = stmtWr 0 0x18 0x306 ∧ stmtCommand 0 (.magnorm 4 2 3) = stmtWr 0 0x14 0x00032405 ∧
    stmtLoad 0 2 0 [-400] = stmtWr 0 0x30 2 ++ stmtWr 0 0x34 0 ++ stmtWr 0 0x38 0xFFFFFE70 := by decide +kernel

/-- `run` of a mnemonic and of `.word` (R111; the word of P3's row 11): the issue, then `wait` and the ERR check. -/
theorem test_run : stmtRun 0 (.median 1 0) = [.write 0x14 [0x02, 0x01, 0, 0], .waitIdle, .stopIfErr] ∧
    stmtRunWord 0 0x00000943 = [.write 0x14 [0x43, 0x09, 0, 0], .waitIdle, .stopIfErr] := by decide

/-- The network picks the 5th smallest of a permutation of 1 to 9 (R143). -/
theorem test_median_network : medianNetwork [9, 3, 7, 1, 5, 8, 2, 6, 4] = 5 := by decide

/-- The scan of a padded 1×1 image with pixel 7 emits its one window (R125). -/
theorem test_line_scan : (lineScan (fun i j => if i = 1 ∧ j = 1 then 7 else 0) 3 3
    { lb0 := [1, 2, 3], lb1 := [4, 5, 6], older := (7, 8, 9), newer := (7, 8, 9), emitted := [] }).emitted =
    [[0, 0, 0, 0, 7, 0, 0, 0, 0]] := by decide +kernel

/-! ### Witnesses: for each obligation with hypotheses, concrete inputs that meet all of them together, at the
boundary values of its clauses -/

/-- `square` with the command `w` in flight and the engine's turn next. -/
def flying (w : Word) : State := { issue w square with turns := [.engine] }

/-- `square` with `turns` to come. -/
def awaiting (turns : List Turn) : State := { square with turns := turns }

theorem witness_EncodedCommandsDecodeBack :
    (Instr.magnorm 15 15 15).wf = true ∧ (Instr.magnorm 0 0 0).wf = true := by decide

theorem witness_EachCommandHasOneWord : decode 0x000FFF05 = .instr (.magnorm 15 15 15) := by decide

theorem witness_IllegalWordsFailWithIllegalOp :
    engineNext (flying 0x00010043) [] ∧ illegalWord 0x00010043 ∧ illegalWord 7 ∧ illegalWord 0x00100000 ∧
    illegalWord 0x10 ∧ illegalWord 0xF1 ∧ illegalWord 0x15 ∧ engineNext { flying 7 with turns := [] } [] := by
  refine ⟨⟨by decide, by decide⟩, ?_, ?_, ?_, ?_, ?_, ?_, ⟨by decide, by decide⟩⟩ <;> unfold illegalWord <;> decide

theorem witness_UnknownKernelsFailWithShapeMismatch :
    engineNext (flying 0xF3) [] ∧ decode 0xF3 = .shapeMismatch ∧ decode 0x43 = .shapeMismatch :=
  ⟨⟨by decide, by decide⟩, by decide, by decide⟩

theorem witness_ResetLeavesTheListedValues :
    Params.wf { hmax := 1, wmax := 1, engineBase := 0 } ∧ Params.wf { hmax := 65533, wmax := 65533, engineBase := 4 } := by
  decide

theorem witness_ResetTurnAbandonsEverything :
    ({ flying 0x101 with turns := [.reset, .host] }).turns = .reset :: [.host] := rfl

theorem witness_EveryStepKeepsInv : EngineInv (State.resetWith params16) ∧
    ∃ t, step (State.resetWith params16) = .next t := by
  refine ⟨?_, _, rfl⟩
  unfold EngineInv memorySafe outcomeSafe
  exact ⟨by decide, ⟨by decide, by simp [State.resetWith]⟩, by decide⟩

theorem witness_EngineTurnRunsTheDecodedCommand :
    engineNext (flying 0x101) [] ∧ decode (flying 0x101).cmd = .instr (.pad 1 0) :=
  ⟨⟨by decide, by decide⟩, by decide⟩

theorem witness_CommandWrittenToCmdRunsNext :
    (Instr.pad 15 0).wf = true ∧ (awaiting [.engine]).status.busy = false ∧ (awaiting [.engine]).turns = .engine :: [] := by
  decide

theorem witness_IdleEngineKeepsEverything :
    (awaiting [.engine]).status.busy = false ∧ (awaiting [.engine]).turns = .engine :: [] := by decide

theorem witness_CmdWriteIssuesOrIsDropped : square.status.busy = false ∧ (flying 0).status.busy = true := by decide

theorem witness_OperandRegistersReadBackOrIgnore : square.status.busy = false ∧ (flying 0).status.busy = true := by
  decide

theorem witness_HostPortIsBlockedWhileBusy : (flying 0).status.busy = true := by decide

theorem witness_HostCannotTouchTheCommandInFlight : (flying 0).status.busy = true := by decide

theorem witness_CompletionDelayIsInvisible :
    InFlight { flying 0x101 with turns := [.host, .host, .engine] } ∧
    ({ flying 0x101 with turns := [.host, .host, .engine] }).turns = List.replicate 2 .host ++ .engine :: [] ∧
    (flying 0x101).turns = List.replicate 0 .host ++ .engine :: [] := by
  unfold InFlight; decide

theorem witness_ReservedOffsetsReadZeroIgnoreWrites : 0x40 ≤ 0x40 ∧ 0x40 ≤ 0xFC ∧ 0xFC ≤ 0xFC := by decide

theorem witness_OddAccessesAreIgnored : 255 < 256 ∧ 255 % 4 ≠ 0 ∧ 252 < 256 ∧ ([0] : List Byte).length ≠ 4 := by decide

theorem witness_ReadOnlyRegistersIgnoreWrites :
    (State.resetWith { hmax := 65533, wmax := 65533, engineBase := 0 }).params.wf ∧
    (State.resetWith { hmax := 1, wmax := 1, engineBase := 0 }).params.wf := by decide

/-- `square` with the host's turn next and `op` at the head of its program. -/
def asking (op : HostOp) (busy : Bool) : State :=
  { (if busy then flying 0 else square) with
    turns := [.host], host := { program := [op], reads := [], stopped := false } }

/-- Both ways in which the host moves next, and each kind of operation with both of its outcomes. -/
theorem witness_AlignedWordAccessesReachTheRegister :
    (252 < 256 ∧ 252 % 4 = 0 ∧ 0 % 4 = 0) ∧ hostNext (asking (.read 0x1018 4) true) [] ∧ hostNext square [] ∧
    square.host.program = [] ∧ (asking .waitIdle true).host.stopped = false ∧
    (asking (.read 0x1018 4) true).host.program = .read 0x1018 4 :: [] ∧
    (asking (.write 0x100C [1, 0, 1, 0]) false).host.program = .write 0x100C [1, 0, 1, 0] :: [] ∧
    (asking .waitIdle true).status.busy = true ∧ (asking .waitIdle false).status.busy = false ∧
    (asking .waitIdle true).host.program = .waitIdle :: [] ∧ (asking .stopIfErr false).host.program = .stopIfErr :: [] ∧
    (asking .stopIfErr false).status.err = false ∧
    (commandFail .badArg 0 (asking .stopIfErr false)).status.err = true ∧
    (commandFail .badArg 0 (asking .stopIfErr false)).host.program = .stopIfErr :: [] := by
  unfold hostNext; decide

/-- Both ways out of range, at the first value outside; CAP is 324. -/
theorem witness_HostPortOutOfRangeSetsHpErr :
    square.status.busy = false ∧ Config.nbuf ≤ ({ square with hpBuf := 8 }).hpBuf.toNat ∧
    (square.params.hmax + 2) * (square.params.wmax + 2) ≤ ({ square with hpIdx := 324 }).hpIdx.toNat := by decide

theorem witness_HostPortMovesOneElement :
    ({ square with hpBuf := 7, hpIdx := 323 }).params.wf ∧ ({ square with hpBuf := 7, hpIdx := 323 }).status.busy = false ∧
    ({ square with hpBuf := 7, hpIdx := 323 }).hpBuf.toNat < Config.nbuf ∧
    ({ square with hpBuf := 7, hpIdx := 323 }).hpIdx.toNat < (square.params.hmax + 2) * (square.params.wmax + 2) := by
  decide

theorem witness_IrqFollowsStatusAndEnables :
    engineNext { flying 0 with irqEn := .ofWord 1 } [] ∧ ({ flying 0 with irqEn := .ofWord 1 }).irqEn.doneIe = true ∧
    ∃ t, step { flying 0 with irqEn := .ofWord 1 } = .next t :=
  ⟨⟨by decide, by decide⟩, by decide, _, rfl⟩

theorem witness_CompletionEndsWellOrFailsPrecisely : InFlight (flying 0x101) ∧ InFlight (flying 7) := by
  unfold InFlight; decide

theorem witness_BusyAndDoneFollowTheCommand :
    square.status.busy = false ∧ (∃ t, complete (flying 0) = .next t) ∧
    ¬ (0x14 = 0x14 ∧ (flying 0).status.busy = false) ∧ ¬ (0x18 = 0x14 ∧ square.status.busy = false) ∧
    bitAt 2 1 = true := ⟨by decide, ⟨_, rfl⟩, by decide, by decide, by decide⟩

theorem witness_ErrAndErrCodeFollowTheOutcome :
    square.status.busy = false ∧ InFlight (flying 0) ∧ (∃ t, complete (flying 0) = .next t) ∧ bitAt 4 2 = true := by
  unfold InFlight; exact ⟨by decide, by decide, ⟨_, rfl⟩, by decide⟩

theorem witness_ViolationFlagsAreSticky :
    (∃ t, complete (flying 0) = .next t) ∧ (setBusyViol square).status.busyViol = true ∧
    (setHpErr square).status.hpErr = true := ⟨⟨_, rfl⟩, by decide, by decide⟩

/-- WINDOW into b7: elements 9 and up of b7, and every element of b6, lie outside what it writes. -/
theorem witness_CommandsWriteOnlyTheirDestination :
    (∃ t, exec (.window 7 0) square = .next t) ∧ 7 < Config.nbuf ∧ destination (.window 7 0) = some 7 ∧
    layoutSize (.window 7 0) square ≤ 9 ∧ 6 < Config.nbuf ∧ destination (.window 7 0) ≠ some 6 :=
  ⟨⟨_, rfl⟩, by decide, by decide, by decide, by decide, by decide⟩

/-- Two states in flight that agree on a command's inputs and differ in the flags and in SCAN. -/
theorem witness_CommandOutcomeIgnoresFlags :
    InFlight (flying 0x104) ∧ InFlight { setBusyViol (flying 0x104) with scanMin := 5, hpIdx := 9 } ∧
    (setBusyViol (flying 0x104)).mem = (flying 0x104).mem ∧
    (∃ t, exec (.norm 1 0) (flying 0x104) = .next t) ∧
    ∃ t, exec (.norm 1 0) { setBusyViol (flying 0x104) with scanMin := 5, hpIdx := 9 } = .next t := by
  unfold InFlight; exact ⟨by decide, by decide, by decide, ⟨_, rfl⟩, ⟨_, rfl⟩⟩

theorem witness_BadBufferIndexFails : 8 ∈ (Instr.magnorm 0 0 8).buffers ∧ Config.nbuf ≤ 8 ∧ 15 ∈ (Instr.pad 15 0).buffers := by
  decide

/-- Each of the four bad dimensions, at the first value outside. -/
theorem witness_InvalidDimensionsFail :
    Instr.pad 7 0 ≠ .nop ∧ (∀ b ∈ (Instr.pad 7 0).buffers, b < Config.nbuf) ∧ (small 0 1).imgH = 0 ∧
    (small 17 1).params.hmax < (small 17 1).imgH ∧ (small 1 0).imgW = 0 ∧ (small 1 17).params.wmax < (small 1 17).imgW := by
  decide

/-- Each of the four bad centres of a 2×2 image, at the first value outside. -/
theorem witness_WindowCentreOutsideFails :
    validDims square ∧ ({ square with cmdArg := 0x00010000 }).crow = 0 ∧
    square.imgH < ({ square with cmdArg := 0x00010003 }).crow ∧ ({ square with cmdArg := 0x00000001 }).ccol = 0 ∧
    square.imgW < ({ square with cmdArg := 0x00030001 }).ccol := by decide

/-- V-CONV-9's image: the sum at index 0 fits, the sum at index 1 does not. -/
theorem witness_OverflowReportsTheLowestIndex :
    (small 1 2).params.wf ∧ validDims (load 0 [-2147483648, 0] (small 1 2)) ∧
    1 < pixels (load 0 [-2147483648, 0] (small 1 2)) ∧
    ¬ isS32 (gradientAt .horizontal (load 0 [-2147483648, 0] (small 1 2)) 0 1) ∧
    ∀ j < 1, isS32 (gradientAt .horizontal (load 0 [-2147483648, 0] (small 1 2)) 0 j) := by
  unfold isS32; decide +kernel

theorem witness_NopOnlyEndsTheCommand : opField 0 = 0 ∧ opField 0xFFFFFFF0 = 0 ∧ (0xFFFFFFF0 : Word) ≠ 0 := by decide

/-- A 1×1 and a full-size image: the border and the interior clause at both ends. -/
theorem witness_PadWritesThePaddedImage : validDims (small 1 1) ∧ validDims (small 16 16) ∧ 7 < Config.nbuf := by decide

/-- The centre at both ends of its range. -/
theorem witness_WindowWritesTheNeighbourhood :
    validDims square ∧ validCentre { square with cmdArg := 0x00010001 } ∧ validCentre { square with cmdArg := 0x00020002 } := by
  decide

theorem witness_MedianWritesTheFifthSmallest : validDims (small 1 1) ∧ validDims (small 16 16) ∧ 7 < Config.nbuf := by
  decide

/-- A corner of a 2×2 image, a pixel of a one-row image, a pixel of a one-column image. -/
theorem witness_MedianIsZeroWhereFiveZerosPad :
    validDims square ∧ (∃ t, exec (.median 1 0) square = .next t) ∧ 1 + 1 = square.imgH ∧ 1 + 1 = square.imgW ∧
    (small 1 3).imgH = 1 ∧ 1 < (small 1 3).imgW ∧ (small 3 1).imgW = 1 ∧ 1 < (small 3 1).imgH :=
  ⟨by decide, ⟨_, rfl⟩, by decide, by decide, by decide, by decide, by decide, by decide⟩

theorem witness_LineScanEmitsTheWindows : (1 : Nat) ≤ 1 ∧ ([1, 2, 3] : List Int).length = 1 + 2 := by decide

/-- No sum of `square` overflows, with any kernel. -/
theorem witness_convolvesWell (K : Kernel) :
    validDims square ∧ ∀ k < pixels square, isS32 (gradientAt K square 0 k) := by
  unfold isS32; cases K <;> decide +kernel

theorem witness_ConvHWritesRightMinusLeft :
    validDims square ∧ ∀ k < pixels square, isS32 (gradientAt .horizontal square 0 k) := witness_convolvesWell _

theorem witness_ConvVWritesBottomMinusTop :
    validDims square ∧ ∀ k < pixels square, isS32 (gradientAt .vertical square 0 k) := witness_convolvesWell _

theorem witness_ConvD45WritesLowerLeftMinusUpperRight :
    validDims square ∧ ∀ k < pixels square, isS32 (gradientAt .diag45 square 0 k) := witness_convolvesWell _

theorem witness_ConvD135WritesUpperLeftMinusLowerRight :
    validDims square ∧ ∀ k < pixels square, isS32 (gradientAt .diag135 square 0 k) := witness_convolvesWell _

theorem witness_ConvSumsStayInRange :
    (∀ j < pixels square, 0 ≤ elem square 0 j ∧ elem square 0 j ≤ 255) ∧ 3 < pixels square ∧ validDims square := by
  decide +kernel

/-- `square`, and its rows the other way up. -/
theorem witness_DiagonalsMirrorEachOther :
    validDims square ∧ (load 1 [3, 4, 1, 2] square).imgDim = square.imgDim ∧
    (∀ y < 2, ∀ x < 2, elem (load 1 [3, 4, 1, 2] square) 1 (y * square.imgW + x) =
      elem square 0 ((square.imgH - 1 - y) * square.imgW + x)) ∧ square.imgH = 2 ∧ square.imgW = 2 ∧
    InFlight (issue 0 square) ∧ InFlight (issue 0 (load 1 [3, 4, 1, 2] square)) ∧
    (∃ t, exec (.convD135 2 0) (issue 0 square) = .next t) ∧
    ∃ t, exec (.convD45 2 1) (issue 0 (load 1 [3, 4, 1, 2] square)) = .next t := by
  unfold InFlight
  exact ⟨by decide, by decide, by decide +kernel, by decide, by decide, by decide, by decide, ⟨_, rfl⟩, ⟨_, rfl⟩⟩

theorem witness_NormRescalesExactly :
    validDims square ∧ isLeast (pixels square) (elem square 0) 1 ∧ isGreatest (pixels square) (elem square 0) 4 ∧
    (1 : Int) ≠ 4 := by
  unfold isLeast isGreatest; decide +kernel

theorem witness_NormOfConstantArrayIsDegenerate :
    validDims (load 0 [-3, -3] (small 1 2)) ∧
    ∀ k < pixels (load 0 [-3, -3] (small 1 2)), elem (load 0 [-3, -3] (small 1 2)) 0 k = -3 := by decide +kernel

theorem witness_NormSpansTheByteRange :
    validDims square ∧ isLeast (pixels square) (elem square 0) 1 ∧ isGreatest (pixels square) (elem square 0) 4 ∧
    (1 : Int) ≠ 4 ∧ ∃ t, exec (.norm 0 0) square = .next t := by
  unfold isLeast isGreatest
  exact ⟨by decide, by decide +kernel, by decide +kernel, by decide, ⟨_, rfl⟩⟩

/-- 2·x + 5 of `square`. -/
theorem witness_NormIsAffineInvariant :
    (1 : Int) ≤ 2 ∧ validDims square ∧ (load 1 [7, 9, 11, 13] square).imgDim = square.imgDim ∧
    (∀ k < pixels square, elem (load 1 [7, 9, 11, 13] square) 1 k = 2 * elem square 0 k + 5) ∧
    elem square 0 0 ≠ elem square 0 3 ∧ (∃ t, exec (.norm 2 0) square = .next t) ∧
    ∃ t, exec (.norm 2 1) (load 1 [7, 9, 11, 13] square) = .next t :=
  ⟨by decide, by decide, by decide, by decide +kernel, by decide +kernel, ⟨_, rfl⟩, ⟨_, rfl⟩⟩

/-- V-MAG-1's gradients: magnitudes 5 and 0. -/
def gradients : State := load 1 [4, 0] (load 0 [3, 0] (small 1 2))

theorem witness_MagnormRescalesExactly :
    validDims gradients ∧ 1 < pixels gradients ∧
    (∀ k < pixels gradients, magnitude gradients 0 1 1 ≤ magnitude gradients 0 1 k) ∧
    (∀ k < pixels gradients, magnitude gradients 0 1 k ≤ magnitude gradients 0 1 0) ∧
    magnitude gradients 0 1 1 ≠ magnitude gradients 0 1 0 := by decide +kernel

theorem witness_MagnormOfEqualMagnitudesIsDegenerate :
    validDims (load 1 [4, 3] (load 0 [3, 4] (small 1 2))) ∧
    ∀ k < 2, magnitude (load 1 [4, 3] (load 0 [3, 4] (small 1 2))) 0 1 k =
      magnitude (load 1 [4, 3] (load 0 [3, 4] (small 1 2))) 0 1 0 := by decide +kernel

theorem witness_MagnormSpansTheByteRange :
    (validDims gradients ∧ 1 < pixels gradients ∧
    (∀ k < pixels gradients, magnitude gradients 0 1 1 ≤ magnitude gradients 0 1 k) ∧
    (∀ k < pixels gradients, magnitude gradients 0 1 k ≤ magnitude gradients 0 1 0) ∧
    magnitude gradients 0 1 1 ≠ magnitude gradients 0 1 0) ∧ sumOfSquares gradients 0 1 1 ≤ sumOfSquares gradients 0 1 0 ∧
    ∃ t, exec (.magnorm 2 0 1) gradients = .next t := ⟨by decide +kernel, by decide +kernel, ⟨_, rfl⟩⟩

/-- 2^53 + 3 lies halfway between two doubles; the next double on either side is at hand, and the one chosen has
an even significand; 2^53 is the last exact integer; 2^54 + 2 rounds to a value with an odd one. -/
theorem witness_IntegerConversionRoundsToNearestEven :
    2 ^ 53 ≤ 2 ^ 53 ∧ (f64 (2 ^ 53 + 2)).normal ∧ fix52 (f64 (2 ^ 53 + 2)) < fix52 (f64 (2 ^ 53 + 3)) ∧
    (f64 (2 ^ 53 + 6)).normal ∧ fix52 (f64 (2 ^ 53 + 3)) < fix52 (f64 (2 ^ 53 + 6)) ∧
    (f64 (2 ^ 53 + 2)).sig % 2 = 1 := by decide +kernel

theorem witness_SquareRootRoundsToNearest :
    (f64 5).normal ∧ (f64 0).normal ∧ (f64 0).sig = 0 ∧ (f64 2).normal ∧ fix52 (f64 2) < fix52 (f64Sqrt (f64 5)) ∧
    (f64 3).normal ∧ fix52 (f64Sqrt (f64 5)) < fix52 (f64 3) := by decide +kernel

end Sys2Proof.Tests
end

section
/-! The engine's invariant: what each operation of a step keeps of it, in the order of the model's files, and the step
itself. -/

namespace Sys2Proof.Machine

/-! ### What the invariant speaks of -/

/-- The invariant speaks of no register but STATUS and ERR_INFO, and of neither sticky flag (R34, R35). -/
theorem EngineInv.frame {s t : State} (h : EngineInv s) (hp : t.params = s.params) (hm : t.mem = s.mem)
    (hi : t.errInfo = s.errInfo)
    (hst : t.status = { s.status with busyViol := t.status.busyViol, hpErr := t.status.hpErr }) : EngineInv t := by
  obtain ⟨hwf, hmem, hout⟩ := h
  rw [EngineInv, memorySafe, outcomeSafe, hp, hm, hi, hst]
  exact ⟨hwf, hmem, hout⟩

/-- While BUSY, a coherent outcome is the cleared one of issue (R231). -/
theorem outcomeSafe.inFlight {s : State} (h : outcomeSafe s) (hb : s.status.busy = true) : InFlight s := by
  obtain ⟨hbusy, -, -, hinfo⟩ := h
  obtain ⟨hdone, herr, hdegen, hcode⟩ := hbusy hb
  exact ⟨hb, hdone, herr, hdegen, hcode, hinfo (by simp [hcode])⟩

/-! ### Memory -/

/-- Element k < CAP of an existing buffer lies inside the frame buffers. -/
theorem elemAddr_lt {b k c : Nat} (hb : b < Config.nbuf) (hk : k < c) : elemAddr b k < c * Config.nbuf := by
  simp only [elemAddr, Config.nbuf] at *
  omega

theorem memorySafe.store {s t : State} (h : memorySafe s) {b k : Nat} (v : Word) (hb : b < Config.nbuf)
    (hk : k < capOf s.params) (hp : t.params = s.params) (hm : t.mem = s.mem.store (elemAddr b k) v) :
    memorySafe t := by
  obtain ⟨hwf, hin⟩ := h
  rw [memorySafe, hp, hm]
  refine ⟨store_wf hwf _ _, fun cell hc => ?_⟩
  rcases mem_store hc with rfl | hc
  · exact elemAddr_lt hb hk
  · exact hin cell hc

theorem memorySafe.writeBuffer {s : State} (h : memorySafe s) {d : Nat} {out : List Int} (hd : d < Config.nbuf)
    (hl : out.length ≤ capOf s.params) : memorySafe (writeBuffer d out s) := by
  obtain ⟨hwf, hin⟩ := h
  refine ⟨storeRun_wf d out 0 hwf, fun cell hc => ?_⟩
  rcases mem_storeRun d out 0 hc with ⟨j, -, hj, he⟩ | hc
  · rw [he]
    exact elemAddr_lt hd (by rw [writeBuffer_params]; omega)
  · exact hin cell hc

/-! ### The ends of a command -/

theorem EngineInv.commandFail {s : State} (h : EngineInv s) (hf : InFlight s) {code : ErrCode} {info : Nat}
    (hc : code ≠ .none) (hi : code ≠ .overflow → info = 0) : EngineInv (commandFail code info s) := by
  obtain ⟨hwf, hmem, -⟩ := h
  obtain ⟨-, -, -, hdegen, -, -⟩ := hf
  refine ⟨hwf, hmem, ?_⟩
  simp only [outcomeSafe, commandFail_status, commandFail_errInfo, hdegen]
  exact ⟨by simp, fun _ => hc, by simp, fun hov => by rw [hi hov]; rfl⟩

/-- A command that ends well, with whatever frame buffers, DEGEN and SCAN. -/
theorem EngineInv.commandDone {s t : State} (h : EngineInv s) (hf : InFlight s) (hp : t.params = s.params)
    (hm : memorySafe t) (hi : t.errInfo = s.errInfo) (he : t.status.err = s.status.err)
    (hc : t.status.errCode = s.status.errCode) : EngineInv (commandDone t) := by
  obtain ⟨-, -, herr, -, hcode, hinfo⟩ := hf
  have ⟨hwf, _, _⟩ := h
  refine ⟨hp ▸ hwf, hm, ?_⟩
  simp [outcomeSafe, he, hc, hi, herr, hcode, hinfo]

/-- Whatever way a command in flight ends, the invariant holds after it. -/
theorem EngineInv.commandEnds {i : Instr} {s t : State} (h : EngineInv s) (hf : InFlight s)
    (ht : CommandEnds i s t) : EngineInv t := by
  have ⟨_, hmem, _⟩ := h
  cases ht with
  | fails code info hc hi => exact h.commandFail hf hc hi
  | nothing => exact h.commandDone hf rfl hmem rfl rfl rfl
  | commits d out _ hn hl => exact h.commandDone hf rfl (hmem.writeBuffer hn hl) rfl rfl rfl
  | normalizes d out g lo hi _ hn hl =>
    have hw : memorySafe (setScan lo hi (markDegen g (writeBuffer d out s))) := hmem.writeBuffer hn hl
    exact h.commandDone hf rfl hw rfl rfl rfl

/-! ### The register block -/

theorem EngineInv.issue {s : State} (h : EngineInv s) (w : Word) : EngineInv (issue w s) := by
  obtain ⟨hwf, hmem, -⟩ := h
  exact ⟨hwf, hmem, by simp [outcomeSafe]⟩

/-- A write to STATUS clears DONE and ERR at most, and ERRCODE and ERR_INFO outlive ERR (R28, R33, R39). -/
theorem EngineInv.clearOnes {s : State} (h : EngineInv s) (v : Word) :
    EngineInv { s with status := s.status.clearOnes v } := by
  obtain ⟨hwf, hmem, hbusy, herr, hdegen, hinfo⟩ := h
  refine ⟨hwf, hmem, fun hb => ?_, fun he => herr ?_, hdegen, hinfo⟩
  · obtain ⟨hdone, herr0, hdegen0, hcode⟩ := hbusy hb
    simp [Status.clearOnes, hdone, herr0, hdegen0, hcode]
  · simp only [Status.clearOnes, Bool.and_eq_true] at he
    exact he.1

theorem EngineInv.portRead {s : State} (h : EngineInv s) : EngineInv (portRead s).2 := by
  rcases portRead_cases s with ⟨-, e⟩ | ⟨-, -, e⟩ | ⟨-, -, e⟩ <;> rw [e] <;> exact h.frame rfl rfl rfl rfl

theorem EngineInv.portWrite {s : State} (h : EngineInv s) (v : Word) : EngineInv (portWrite v s) := by
  rcases portWrite_cases v s with ⟨-, e⟩ | ⟨-, -, e⟩ | ⟨-, ⟨hb, hk⟩, e⟩ <;> rw [e]
  · exact h.frame rfl rfl rfl rfl
  · exact h.frame rfl rfl rfl rfl
  · obtain ⟨hwf, hmem, hout⟩ := h
    exact ⟨hwf, hmem.store v hb hk rfl rfl, hout⟩

theorem EngineInv.hostRead {s : State} (h : EngineInv s) (off : Nat) : EngineInv (hostRead off s).2 := by
  rcases hostRead_cases off s with e | ⟨-, e⟩ <;> rw [e]
  · exact h
  · exact h.portRead

theorem EngineInv.hostWrite {s : State} (h : EngineInv s) (off : Nat) (v : Word) : EngineInv (hostWrite off v s) := by
  rcases hostWrite_cases off v s with
    e | ⟨-, e⟩ | ⟨-, e⟩ | ⟨-, e⟩ | ⟨-, -, e⟩ | ⟨-, e⟩ | e | e | e | e <;> rw [e]
  · exact h
  · exact h.frame rfl rfl rfl rfl
  · exact h.frame rfl rfl rfl rfl
  · exact h.frame rfl rfl rfl rfl
  · exact h.issue v
  · exact h.clearOnes v
  · exact h.frame rfl rfl rfl rfl
  · exact h.frame rfl rfl rfl rfl
  · exact h.frame rfl rfl rfl rfl
  · exact h.portWrite v

/-! ### The agents' turns -/

theorem EngineInv.hostTurn {s : State} (h : EngineInv s) : EngineInv (hostTurn s) := by
  obtain ⟨u, a, e, hu⟩ := hostTurn_cases s
  have hinv : EngineInv u := by
    rcases hu with rfl | ⟨off, rfl⟩ | ⟨off, v, rfl⟩
    · exact h
    · exact h.hostRead off
    · exact h.hostWrite off v
  rw [e]
  exact hinv.frame rfl rfl rfl rfl

theorem EngineInv.complete {s t : State} (h : EngineInv s) (hb : s.status.busy = true) (ht : complete s = .next t) :
    EngineInv t := by
  have ⟨_, _, hout⟩ := h
  have hf : InFlight s := hout.inFlight hb
  obtain ⟨u, hu, hends⟩ := complete_ends s
  obtain rfl : u = t := by simpa [hu] using ht
  rcases hends with ⟨code, hc, -, rfl⟩ | ⟨i, -, -, hi⟩
  · exact h.commandFail hf hc fun _ => rfl
  · exact h.commandEnds hf hi

theorem EngineInv.engineTurn {s t : State} (h : EngineInv s) (ht : engineTurn s = .next t) : EngineInv t := by
  unfold Machine.engineTurn at ht
  split_ifs at ht with hb
  · exact h.complete hb ht
  · cases ht; exact h

theorem EngineInv.resetEngine {s : State} (h : EngineInv s) : EngineInv (resetEngine s) := by
  obtain ⟨hwf, -, -⟩ := h
  exact ⟨hwf, by simp [memorySafe], by simp [outcomeSafe, Status.reset]⟩

end Sys2Proof.Machine

namespace Sys2Proof.Proofs

open Sys2Proof.Machine

/-- Settles O9: whichever agent moves, its turn keeps the invariant. -/
theorem everyStepKeepsInv : Obligations.EveryStepKeepsInv := by
  unfold Obligations.EveryStepKeepsInv
  intro s t h ht
  have hlater (later : List Turn) : EngineInv { s with turns := later } := h.frame rfl rfl rfl rfl
  unfold step at ht
  split at ht
  · split_ifs at ht
    · exact h.engineTurn ht
    · cases ht; exact h.hostTurn
  · cases ht; exact (hlater _).hostTurn
  · exact (hlater _).engineTurn ht
  · cases ht; exact (hlater _).resetEngine

end Sys2Proof.Proofs
end

section
/-! The binary64 conversion, square root and encoding that MAGNORM uses (R10, R196): where the values lie on the fix52
scale, rounding to the nearest of them, and what the magnitude of an element can be. -/

namespace Sys2Proof.Machine

/-! ### Normalized values on the fix52 scale -/

theorem F64.normal.sig_bounds {x : F64} (hx : x.normal) (h0 : x.sig ≠ 0) : 2 ^ 52 ≤ x.sig ∧ x.sig < 2 ^ 53 :=
  hx.resolve_left fun ⟨hz, _⟩ => h0 hz

theorem F64.normal.eq_zero {x : F64} (hx : x.normal) (h0 : x.sig = 0) : x = { sig := 0, exp := 0 } := by
  obtain ⟨sig, exp⟩ := x
  obtain ⟨rfl, rfl⟩ | ⟨hlo, -⟩ := hx
  · rfl
  · omega

theorem fix52_eq_zero {x : F64} : fix52 x = 0 ↔ x.sig = 0 := by
  simp [fix52]

/-- A normalized value that is not 0 is at least 1, and its exponent bounds it. -/
theorem F64.normal.fix52_bounds {x : F64} (hx : x.normal) (h0 : x.sig ≠ 0) :
    2 ^ 52 * 2 ^ x.exp ≤ fix52 x ∧ fix52 x < 2 ^ 53 * 2 ^ x.exp := by
  obtain ⟨hlo, hhi⟩ := hx.sig_bounds h0
  exact ⟨Nat.mul_le_mul_right _ hlo, Nat.mul_lt_mul_of_pos_right hhi (by positivity)⟩

/-- From 2^52·2^e on, normalized values lie on the grid of step 2^e: none lies between two neighbours of it. -/
theorem F64.normal.succ_grid_le {y : F64} (hy : y.normal) {r e : Nat} (hr : 2 ^ 52 ≤ r)
    (hlo : r * 2 ^ e < fix52 y) : (r + 1) * 2 ^ e ≤ fix52 y := by
  have hpos : y.sig ≠ 0 := fun h => by rw [fix52_eq_zero.2 h] at hlo; omega
  obtain ⟨-, hhi⟩ := hy.fix52_bounds hpos
  have he : e ≤ y.exp := by
    by_contra hlt
    have : 2 ^ 53 * 2 ^ y.exp ≤ r * 2 ^ e := calc
      2 ^ 53 * 2 ^ y.exp = 2 ^ 52 * 2 ^ (y.exp + 1) := by ring
      _ ≤ r * 2 ^ e := Nat.mul_le_mul hr (Nat.pow_le_pow_right (by norm_num) (by omega))
    omega
  obtain ⟨c, hc⟩ := Nat.exists_eq_add_of_le he
  have hfix : fix52 y = y.sig * 2 ^ c * 2 ^ e := by rw [fix52, hc]; ring
  rw [hfix] at hlo ⊢
  exact Nat.mul_le_mul_right _ (Nat.lt_of_mul_lt_mul_right hlo)

theorem F64.normal.le_grid_of_lt_succ {y : F64} (hy : y.normal) {r e : Nat} (hr : 2 ^ 52 ≤ r)
    (hlt : fix52 y < (r + 1) * 2 ^ e) : fix52 y ≤ r * 2 ^ e := by
  by_contra hgt
  have := hy.succ_grid_le hr (Nat.lt_of_not_le hgt)
  omega

/-! ### Rounding to the nearest grid point -/

/-- The grid point r·2^e, in a binade whose values have step 2^e, is at most half a step from `N`, and r is even if it
is just half a step away. -/
structure NearestEven (N r e : Nat) : Prop where
  sig_ge : 2 ^ 52 ≤ r
  binade_le : 2 ^ 52 * 2 ^ e ≤ N
  le_half_above : 2 * N ≤ 2 * (r * 2 ^ e) + 2 ^ e
  le_half_below : 2 * (r * 2 ^ e) ≤ 2 * N + 2 ^ e
  even_of_tie : 2 * N = 2 * (r * 2 ^ e) + 2 ^ e ∨ 2 * (r * 2 ^ e) = 2 * N + 2 ^ e → r % 2 = 0

/-- A normalized value below a grid point that rounding raised is at most the grid point before it. -/
theorem NearestEven.le_pred {N r e : Nat} (h : NearestEven N r e) {y : F64} (hy : y.normal)
    (hup : N < r * 2 ^ e) (hlt : fix52 y < r * 2 ^ e) : fix52 y + 2 ^ e ≤ r * 2 ^ e := by
  have hr : 2 ^ 52 < r := Nat.lt_of_mul_lt_mul_right (lt_of_le_of_lt h.binade_le hup)
  obtain ⟨q, rfl⟩ : ∃ q, r = q + 1 := ⟨r - 1, by omega⟩
  have := hy.le_grid_of_lt_succ (by omega) hlt
  rw [Nat.add_mul]
  omega

/-- A normalized value above a grid point is at least the grid point after it. -/
theorem NearestEven.succ_le {N r e : Nat} (h : NearestEven N r e) {y : F64} (hy : y.normal)
    (hlt : r * 2 ^ e < fix52 y) : r * 2 ^ e + 2 ^ e ≤ fix52 y := by
  have := hy.succ_grid_le h.sig_ge hlt
  rwa [Nat.add_mul, Nat.one_mul] at this

/-- `N` is not past the midpoint towards any normalized value below. -/
theorem NearestEven.midpoint_below {N r e : Nat} (h : NearestEven N r e) {y : F64} (hy : y.normal)
    (hlt : fix52 y < r * 2 ^ e) : fix52 y + r * 2 ^ e ≤ 2 * N := by
  by_cases hup : N < r * 2 ^ e
  · have := h.le_pred hy hup hlt
    have := h.le_half_below
    omega
  · omega

/-- `N` is not past the midpoint towards any normalized value above. -/
theorem NearestEven.midpoint_above {N r e : Nat} (h : NearestEven N r e) {y : F64} (hy : y.normal)
    (hlt : r * 2 ^ e < fix52 y) : 2 * N ≤ r * 2 ^ e + fix52 y := by
  have := h.succ_le hy hlt
  have := h.le_half_above
  omega

/-- Where `N` is the midpoint to another normalized value, the grid point is half a step away, so r is even. -/
theorem NearestEven.even_of_midpoint {N r e : Nat} (h : NearestEven N r e) {y : F64} (hy : y.normal)
    (hne : fix52 y ≠ r * 2 ^ e) (hmid : fix52 y + r * 2 ^ e = 2 * N) : r % 2 = 0 := by
  have habove := h.le_half_above
  have hbelow := h.le_half_below
  refine h.even_of_tie ?_
  rcases Nat.lt_or_gt_of_ne hne with hlt | hgt
  · have := h.le_pred hy (by omega) hlt
    omega
  · have := h.succ_le hy hgt
    omega

/-! ### The conversion of an integer -/

/-- `roundShift n k` is n / 2^k to the nearest integer, ties to the even one. -/
theorem roundShift_nearest (n k : Nat) :
    2 * n ≤ 2 * (roundShift n k * 2 ^ k) + 2 ^ k ∧ 2 * (roundShift n k * 2 ^ k) ≤ 2 * n + 2 ^ k ∧
    (2 * n = 2 * (roundShift n k * 2 ^ k) + 2 ^ k ∨ 2 * (roundShift n k * 2 ^ k) = 2 * n + 2 ^ k →
      roundShift n k % 2 = 0) := by
  have hdiv : n / 2 ^ k * 2 ^ k + n % 2 ^ k = n := Nat.div_add_mod' n _
  have hmod : n % 2 ^ k < 2 ^ k := Nat.mod_lt _ (by positivity)
  have hsucc : (n / 2 ^ k + 1) * 2 ^ k = n / 2 ^ k * 2 ^ k + 2 ^ k := Nat.succ_mul _ _
  unfold roundShift
  split_ifs <;> omega

/-- Rounding moves no quotient out of the closed range of its binade. -/
theorem roundShift_mem {n k m : Nat} (hlo : m * 2 ^ k ≤ n) {u : Nat} (hhi : n < u * 2 ^ k) :
    m ≤ roundShift n k ∧ roundShift n k ≤ u := by
  have h1 : m ≤ n / 2 ^ k := (Nat.le_div_iff_mul_le (by positivity)).2 hlo
  have h2 : n / 2 ^ k < u := (Nat.div_lt_iff_lt_mul (by positivity)).2 hhi
  unfold roundShift
  split_ifs <;> omega

/-- An integer of more than 53 bits lies in the binade of its highest bit, in units of the last place kept. -/
theorem binade_of_log2 {n : Nat} (h : 52 < n.log2) :
    2 ^ 52 * 2 ^ (n.log2 - 52) ≤ n ∧ n < 2 ^ 53 * 2 ^ (n.log2 - 52) := by
  have hn : n ≠ 0 := by rintro rfl; simp at h
  rw [← pow_add, ← pow_add, show 52 + (n.log2 - 52) = n.log2 by omega,
    show 53 + (n.log2 - 52) = n.log2 + 1 by omega]
  exact ⟨Nat.log2_self_le hn, Nat.lt_log2_self⟩

theorem f64_of_log2_le {n : Nat} (hn : n ≠ 0) (h : n.log2 ≤ 52) :
    f64 n = { sig := n * 2 ^ (52 - n.log2), exp := n.log2 } := by
  rw [f64, if_neg hn, if_pos h]

/-- The significand of an integer of more than 53 bits is rounded; one that rounds up to 2^53 takes the next exponent,
which changes neither the value nor that the significand is even. -/
theorem f64_of_lt_log2 {n : Nat} (h : 52 < n.log2) :
    (f64 n).normal ∧ fix52 (f64 n) = roundShift n (n.log2 - 52) * 2 ^ n.log2 ∧
    ((f64 n).sig % 2 = 1 → roundShift n (n.log2 - 52) % 2 = 1) := by
  have hn : n ≠ 0 := by rintro rfl; simp at h
  obtain ⟨hlo, hhi⟩ := binade_of_log2 h
  obtain ⟨hge, hle⟩ := roundShift_mem hlo hhi
  rw [f64, if_neg hn, if_neg (by omega)]
  split_ifs with hcarry
  · exact ⟨.inr (by norm_num), by rw [fix52, hcarry]; ring, by norm_num⟩
  · exact ⟨.inr ⟨hge, Nat.lt_of_le_of_ne hle hcarry⟩, rfl, id⟩

/-- An integer of at most 53 bits is converted exactly. -/
theorem fix52_f64_of_log2_le {n : Nat} (h : n.log2 ≤ 52) : fix52 (f64 n) = n * 2 ^ 52 := by
  by_cases hn : n = 0
  · simp [hn, f64, fix52]
  · rw [f64_of_log2_le hn h, fix52, Nat.mul_assoc, ← pow_add, Nat.sub_add_cancel h]

theorem f64_normal (n : Nat) : (f64 n).normal := by
  by_cases hn : n = 0
  · exact .inl (by simp [hn, f64])
  by_cases h : n.log2 ≤ 52
  · rw [f64_of_log2_le hn h]
    have hlo : 2 ^ n.log2 ≤ n := Nat.log2_self_le hn
    have hhi : n < 2 ^ (n.log2 + 1) := Nat.lt_log2_self
    have hpos : 0 < 2 ^ (52 - n.log2) := by positivity
    refine .inr ⟨?_, ?_⟩
    · calc 2 ^ 52 = 2 ^ n.log2 * 2 ^ (52 - n.log2) := by rw [← pow_add]; congr 1; omega
        _ ≤ n * 2 ^ (52 - n.log2) := Nat.mul_le_mul_right _ hlo
    · calc n * 2 ^ (52 - n.log2) < 2 ^ (n.log2 + 1) * 2 ^ (52 - n.log2) := Nat.mul_lt_mul_of_pos_right hhi hpos
        _ = 2 ^ 53 := by rw [← pow_add]; congr 1; omega
  · exact (f64_of_lt_log2 (by omega)).1

/-- An integer of more than 53 bits is rounded to the nearest grid point of its binade. -/
theorem f64_nearestEven {n : Nat} (h : 52 < n.log2) :
    NearestEven (n * 2 ^ 52) (roundShift n (n.log2 - 52)) n.log2 := by
  obtain ⟨hlo, hhi⟩ := binade_of_log2 h
  obtain ⟨hge, -⟩ := roundShift_mem hlo hhi
  obtain ⟨habove, hbelow, htie⟩ := roundShift_nearest n (n.log2 - 52)
  have hpow : 2 ^ n.log2 = 2 ^ (n.log2 - 52) * 2 ^ 52 := by rw [← pow_add, Nat.sub_add_cancel (by omega)]
  have hscale : roundShift n (n.log2 - 52) * 2 ^ n.log2 = roundShift n (n.log2 - 52) * 2 ^ (n.log2 - 52) * 2 ^ 52 := by
    rw [hpow, Nat.mul_assoc]
  refine ⟨hge, ?_, ?_, ?_, fun ht => htie ?_⟩ <;> omega

/-- `f64(n)` is correctly rounded against every normalized value: neither midpoint is passed, and at a midpoint the
significand is even. -/
theorem f64_midpoints (n : Nat) {y : F64} (hy : y.normal) :
    (fix52 y < fix52 (f64 n) → fix52 y + fix52 (f64 n) ≤ 2 * (n * 2 ^ 52)) ∧
    (fix52 (f64 n) < fix52 y → 2 * (n * 2 ^ 52) ≤ fix52 (f64 n) + fix52 y) ∧
    ((f64 n).sig % 2 = 1 → fix52 y ≠ fix52 (f64 n) → fix52 y + fix52 (f64 n) ≠ 2 * (n * 2 ^ 52)) := by
  by_cases h : n.log2 ≤ 52
  · rw [fix52_f64_of_log2_le h]
    omega
  · have hnear := f64_nearestEven (n := n) (by omega)
    obtain ⟨-, hfix, hodd⟩ := f64_of_lt_log2 (n := n) (by omega)
    rw [hfix]
    refine ⟨hnear.midpoint_below hy, hnear.midpoint_above hy, fun hs hne hmid => ?_⟩
    have := hnear.even_of_midpoint hy hne hmid
    have := hodd hs
    omega

/-- Rounding passes no normalized value: an integer below one is converted to a value not above it. -/
theorem fix52_f64_le {n : Nat} {y : F64} (hy : y.normal) (h : n * 2 ^ 52 ≤ fix52 y) : fix52 (f64 n) ≤ fix52 y := by
  by_contra hlt
  obtain ⟨hbelow, -, -⟩ := f64_midpoints n hy
  have := hbelow (by omega)
  omega

theorem le_fix52_f64 {n : Nat} {y : F64} (hy : y.normal) (h : fix52 y ≤ n * 2 ^ 52) : fix52 y ≤ fix52 (f64 n) := by
  by_contra hlt
  obtain ⟨-, habove, -⟩ := f64_midpoints n hy
  have := habove (by omega)
  omega

theorem fix52_f64_of_le {n : Nat} (h : n ≤ 2 ^ 53) : fix52 (f64 n) = n * 2 ^ 52 := by
  rcases Nat.lt_or_eq_of_le h with hlt | rfl
  · by_cases hn : n = 0
    · simp [hn, f64, fix52]
    · have : n.log2 < 53 := (Nat.log2_lt hn).2 hlt
      exact fix52_f64_of_log2_le (by omega)
  · have hy : F64.normal { sig := 2 ^ 52, exp := 53 } := .inr (by norm_num)
    have hval : fix52 { sig := 2 ^ 52, exp := 53 } = 2 ^ 53 * 2 ^ 52 := by norm_num [fix52]
    have hle := fix52_f64_le hy hval.ge
    have hge := le_fix52_f64 hy hval.le
    omega

theorem f64_sig_eq_zero {n : Nat} : (f64 n).sig = 0 ↔ n = 0 := by
  refine ⟨fun h => ?_, fun h => by simp [h, f64]⟩
  have hone : F64.normal { sig := 2 ^ 52, exp := 0 } := .inr (by norm_num)
  by_contra hn
  have hge := le_fix52_f64 (n := n) hone (by simp only [fix52]; omega)
  rw [fix52_eq_zero.2 h] at hge
  norm_num [fix52] at hge

/-! ### The square root -/

/-- The search from the highest bit down ends at the integer square root. -/
theorem isqrtFrom_eq_sqrt {n : Nat} : ∀ (bits r : Nat), r * r ≤ n → n < (r + 2 ^ bits) * (r + 2 ^ bits) →
    isqrtFrom n bits r = Nat.sqrt n
  | 0, r, hlo, hhi => Nat.eq_sqrt.2 ⟨hlo, hhi⟩
  | bits + 1, r, hlo, hhi => by
    rw [isqrtFrom]
    split_ifs with h
    · exact isqrtFrom_eq_sqrt bits _ h (by rwa [Nat.add_assoc, ← Nat.two_mul, ← Nat.pow_succ'])
    · exact isqrtFrom_eq_sqrt bits r hlo (by omega)

theorem isqrt_eq_sqrt {n : Nat} (h : n < 2 ^ 106) : isqrt n = Nat.sqrt n :=
  isqrtFrom_eq_sqrt 53 0 (Nat.zero_le _) (by norm_num at h ⊢; exact h)

/-- The square root lies strictly on the side of `nearestSqrt n` of its midpoint to every other integer. -/
theorem nearestSqrt_midpoints {n : Nat} (h : n < 2 ^ 106) (q : Nat) :
    (q < nearestSqrt n → (q + nearestSqrt n) ^ 2 < 4 * n) ∧
    (nearestSqrt n < q → 4 * n < (nearestSqrt n + q) ^ 2) := by
  have hlo : Nat.sqrt n * Nat.sqrt n ≤ n := Nat.sqrt_le n
  have hhi : n < (Nat.sqrt n + 1) * (Nat.sqrt n + 1) := Nat.lt_succ_sqrt n
  rw [nearestSqrt, isqrt_eq_sqrt h]
  generalize Nat.sqrt n = r at *
  split_ifs with hup
  · exact ⟨fun hq => by nlinarith, fun hq => by nlinarith⟩
  · exact ⟨fun hq => by nlinarith, fun hq => by nlinarith⟩

/-- The radicand of a normalized value other than 0 has 105 or 106 bits. -/
theorem sqrtRadicand_bounds {x : F64} (hx : x.normal) (h0 : x.sig ≠ 0) :
    2 ^ 52 * 2 ^ 52 ≤ sqrtRadicand x ∧ sqrtRadicand x ≤ (2 ^ 53 - 1) * 2 ^ 53 := by
  obtain ⟨hlo, hhi⟩ := hx.sig_bounds h0
  have hodd : x.exp % 2 < 2 := Nat.mod_lt _ (by norm_num)
  exact ⟨Nat.mul_le_mul hlo (Nat.pow_le_pow_right (by norm_num) (by omega)),
    Nat.mul_le_mul (by omega) (Nat.pow_le_pow_right (by norm_num) (by omega))⟩

/-- The root of a radicand of 105 or 106 bits has 53 bits, rounded or not. -/
theorem nearestSqrt_bounds {n : Nat} (hlo : 2 ^ 52 * 2 ^ 52 ≤ n) (hhi : n ≤ (2 ^ 53 - 1) * 2 ^ 53) :
    2 ^ 52 ≤ nearestSqrt n ∧ nearestSqrt n < 2 ^ 53 := by
  have hge : 2 ^ 52 ≤ Nat.sqrt n := Nat.le_sqrt.2 hlo
  have hlt : Nat.sqrt n < 2 ^ 53 := Nat.sqrt_lt.2 (by omega)
  rw [nearestSqrt, isqrt_eq_sqrt (by omega)]
  split_ifs with hup
  · refine ⟨by omega, ?_⟩
    by_contra htop
    have hr : Nat.sqrt n = 2 ^ 53 - 1 := by omega
    rw [hr] at hup
    omega
  · exact ⟨hge, hlt⟩

theorem f64Sqrt_zero {x : F64} (h : x.sig = 0) : f64Sqrt x = { sig := 0, exp := 0 } := by
  rw [f64Sqrt, if_pos h]

theorem f64Sqrt_of_sig_ne_zero {x : F64} (h : x.sig ≠ 0) :
    f64Sqrt x = { sig := nearestSqrt (sqrtRadicand x), exp := x.exp / 2 } := by
  rw [f64Sqrt, if_neg h]

theorem f64Sqrt_normal {x : F64} (hx : x.normal) : (f64Sqrt x).normal := by
  by_cases h0 : x.sig = 0
  · rw [f64Sqrt_zero h0]
    exact .inl ⟨rfl, rfl⟩
  · obtain ⟨hlo, hhi⟩ := sqrtRadicand_bounds hx h0
    obtain ⟨hge, hlt⟩ := nearestSqrt_bounds hlo hhi
    rw [f64Sqrt_of_sig_ne_zero h0]
    exact .inr ⟨hge, hlt⟩

theorem f64Sqrt_sig_eq_zero {x : F64} (hx : x.normal) : (f64Sqrt x).sig = 0 ↔ x.sig = 0 := by
  refine ⟨fun h => ?_, fun h => by rw [f64Sqrt_zero h]⟩
  by_contra h0
  obtain ⟨hlo, hhi⟩ := sqrtRadicand_bounds hx h0
  obtain ⟨hge, -⟩ := nearestSqrt_bounds hlo hhi
  rw [f64Sqrt_of_sig_ne_zero h0] at h
  simp only at h
  omega

/-- The square of the root on the fix52 scale is the radicand, in units of the root's last place squared. -/
theorem fix52_mul_eq_radicand (x : F64) : fix52 x * 2 ^ 52 = sqrtRadicand x * (2 ^ (x.exp / 2)) ^ 2 := by
  have hexp : 2 ^ x.exp = 2 ^ (x.exp % 2) * (2 ^ (x.exp / 2)) ^ 2 := by
    rw [← pow_mul, ← pow_add, Nat.mul_comm, Nat.mod_add_div]
  rw [fix52, sqrtRadicand, hexp, pow_add]
  ring

/-- A rounded root r·2^e on its side of the midpoint to each integer below is so of the midpoint to each normalized
value below. -/
theorem root_midpoint_below {n r e : Nat} {y : F64} (hy : y.normal) (hn : 2 ^ 52 * 2 ^ 52 ≤ n)
    (hmid : ∀ q < r, (q + r) ^ 2 < 4 * n) (hlt : fix52 y < r * 2 ^ e) :
    (fix52 y + r * 2 ^ e) ^ 2 < 4 * (n * (2 ^ e) ^ 2) := by
  by_cases hr : r * r ≤ n
  · calc (fix52 y + r * 2 ^ e) ^ 2
        < (2 * (r * 2 ^ e)) ^ 2 := Nat.pow_lt_pow_left (by omega) (by norm_num)
      _ = 4 * (r * r * (2 ^ e) ^ 2) := by ring
      _ ≤ 4 * (n * (2 ^ e) ^ 2) := by gcongr
  · have hgt : 2 ^ 52 < r := by nlinarith
    obtain ⟨q, rfl⟩ : ∃ q, r = q + 1 := ⟨r - 1, by omega⟩
    have hle : fix52 y ≤ q * 2 ^ e := hy.le_grid_of_lt_succ (by omega) hlt
    have hq : (q + (q + 1)) ^ 2 < 4 * n := hmid q (by omega)
    calc (fix52 y + (q + 1) * 2 ^ e) ^ 2
        ≤ (q * 2 ^ e + (q + 1) * 2 ^ e) ^ 2 := by gcongr
      _ = (q + (q + 1)) ^ 2 * (2 ^ e) ^ 2 := by ring
      _ < 4 * n * (2 ^ e) ^ 2 := by gcongr
      _ = 4 * (n * (2 ^ e) ^ 2) := by ring

theorem root_midpoint_above {n r e : Nat} {y : F64} (hy : y.normal) (hr : 2 ^ 52 ≤ r)
    (hmid : ∀ q, r < q → 4 * n < (r + q) ^ 2) (hlt : r * 2 ^ e < fix52 y) :
    4 * (n * (2 ^ e) ^ 2) < (r * 2 ^ e + fix52 y) ^ 2 := by
  have hge : (r + 1) * 2 ^ e ≤ fix52 y := hy.succ_grid_le hr hlt
  have hq : 4 * n < (r + (r + 1)) ^ 2 := hmid (r + 1) (by omega)
  calc 4 * (n * (2 ^ e) ^ 2)
      = 4 * n * (2 ^ e) ^ 2 := by ring
    _ < (r + (r + 1)) ^ 2 * (2 ^ e) ^ 2 := by gcongr
    _ = (r * 2 ^ e + (r + 1) * 2 ^ e) ^ 2 := by ring
    _ ≤ (r * 2 ^ e + fix52 y) ^ 2 := by gcongr

/-- `f64_sqrt(x)` is correctly rounded against every normalized value: the exact root lies strictly on its side of
both midpoints. -/
theorem f64Sqrt_midpoints {x y : F64} (hx : x.normal) (h0 : x.sig ≠ 0) (hy : y.normal) :
    (fix52 y < fix52 (f64Sqrt x) → (fix52 y + fix52 (f64Sqrt x)) ^ 2 < 4 * (fix52 x * 2 ^ 52)) ∧
    (fix52 (f64Sqrt x) < fix52 y → 4 * (fix52 x * 2 ^ 52) < (fix52 (f64Sqrt x) + fix52 y) ^ 2) := by
  obtain ⟨hlo, hhi⟩ := sqrtRadicand_bounds hx h0
  obtain ⟨hge, -⟩ := nearestSqrt_bounds hlo hhi
  have hmid := nearestSqrt_midpoints (n := sqrtRadicand x) (by omega)
  rw [f64Sqrt_of_sig_ne_zero h0, fix52_mul_eq_radicand]
  exact ⟨root_midpoint_below hy hlo fun q => (hmid q).1, root_midpoint_above hy hge fun q => (hmid q).2⟩

/-! ### The encoding -/

/-- The encoding of a normalized value other than 0, as a number. -/
theorem f64Bits_toNat {x : F64} (hx : x.normal) (h0 : x.sig ≠ 0) (he : x.exp < 1024) :
    (f64Bits x).toNat = (x.exp + 1023) * 2 ^ 52 + (x.sig - 2 ^ 52) := by
  obtain ⟨hlo, hhi⟩ := hx.sig_bounds h0
  rw [f64Bits, if_neg h0, BitVec.toNat_ofNat, Nat.mod_eq_of_lt]
  omega

/-- The sign bit of an encoding is 0. -/
theorem f64Bits_lt {x : F64} (hx : x.normal) (he : x.exp < 1024) : (f64Bits x).toNat < 2 ^ 63 := by
  by_cases h0 : x.sig = 0
  · simp [f64Bits, h0]
  · rw [f64Bits_toNat hx h0 he]
    obtain ⟨hlo, hhi⟩ := hx.sig_bounds h0
    omega

/-- The encoding, read back by IEEE 754's rule, denotes the value encoded. -/
theorem valueOfBits_f64Bits {x : F64} (hx : x.normal) (he : x.exp < 1024) :
    Claims.valueOfBits (f64Bits x) = fix52 x := by
  by_cases h0 : x.sig = 0
  · simp [f64Bits, h0, Claims.valueOfBits, fix52]
  · have hbits := f64Bits_toNat hx h0 he
    obtain ⟨hlo, hhi⟩ := hx.sig_bounds h0
    have hexp : (f64Bits x).toNat / 2 ^ 52 - 1023 = x.exp := by omega
    have hsig : 2 ^ 52 + (f64Bits x).toNat % 2 ^ 52 = x.sig := by omega
    rw [Claims.valueOfBits, if_neg (by omega), hexp, fix52, ← hsig]
    push_cast
    rfl

/-! ### The magnitude of an element -/

/-- The square of an element is at most 2^62. -/
theorem elem_mul_self_bounds (s : State) (b k : Nat) :
    0 ≤ elem s b k * elem s b k ∧ elem s b k * elem s b k ≤ 2 ^ 62 := by
  obtain ⟨hlo, hhi⟩ := elem_isS32 s b k
  constructor <;> nlinarith

theorem sumOfSquares_cast (s : State) (a b k : Nat) :
    (sumOfSquares s a b k : Int) = elem s a k * elem s a k + elem s b k * elem s b k := by
  obtain ⟨ha, -⟩ := elem_mul_self_bounds s a k
  obtain ⟨hb, -⟩ := elem_mul_self_bounds s b k
  exact Int.toNat_of_nonneg (by omega)

theorem sumOfSquares_le (s : State) (a b k : Nat) : sumOfSquares s a b k ≤ 2 ^ 63 := by
  have hcast := sumOfSquares_cast s a b k
  obtain ⟨-, ha⟩ := elem_mul_self_bounds s a k
  obtain ⟨-, hb⟩ := elem_mul_self_bounds s b k
  omega

theorem magnitudeAt_normal (s : State) (a b k : Nat) : (magnitudeAt s a b k).normal := f64Sqrt_normal (f64_normal _)

theorem magnitudeAt_sig_eq_zero {s : State} {a b k : Nat} :
    (magnitudeAt s a b k).sig = 0 ↔ sumOfSquares s a b k = 0 := by
  rw [magnitudeAt, f64Sqrt_sig_eq_zero (f64_normal _), f64_sig_eq_zero]

/-- An integer of at most 2^63 is converted to a value with an exponent of at most 63: rounding does not pass 2^63. -/
theorem f64_exp_le {n : Nat} (hn : n ≤ 2 ^ 63) : (f64 n).exp ≤ 63 := by
  by_cases h0 : (f64 n).sig = 0
  · simp [f64_sig_eq_zero.1 h0, f64]
  · have htop : F64.normal { sig := 2 ^ 52, exp := 63 } := .inr (by norm_num)
    have hle : fix52 (f64 n) ≤ 2 ^ 52 * 2 ^ 63 := fix52_f64_le htop (by simp only [fix52]; omega)
    obtain ⟨hlo, -⟩ := (f64_normal n).fix52_bounds h0
    have hpow : 2 ^ (f64 n).exp ≤ 2 ^ 63 := Nat.le_of_mul_le_mul_left (hlo.trans hle) (by norm_num)
    exact (Nat.pow_le_pow_iff_right (by norm_num)).1 hpow

/-- The root of a sum of at most 2^63 lies below 2^32. -/
theorem magnitudeAt_exp_le (s : State) (a b k : Nat) : (magnitudeAt s a b k).exp ≤ 31 := by
  have hexp := f64_exp_le (sumOfSquares_le s a b k)
  rw [magnitudeAt, f64Sqrt]
  split_ifs
  · simp
  · simp only
    omega

theorem fix52_magnitudeAt_lt (s : State) (a b k : Nat) : fix52 (magnitudeAt s a b k) < 2 ^ 84 := by
  by_cases h0 : (magnitudeAt s a b k).sig = 0
  · rw [fix52_eq_zero.2 h0]
    norm_num
  · obtain ⟨-, hhi⟩ := (magnitudeAt_normal s a b k).fix52_bounds h0
    calc fix52 (magnitudeAt s a b k) < 2 ^ 53 * 2 ^ (magnitudeAt s a b k).exp := hhi
      _ ≤ 2 ^ 53 * 2 ^ 31 := Nat.mul_le_mul_left _ (Nat.pow_le_pow_right (by norm_num) (magnitudeAt_exp_le s a b k))
      _ = 2 ^ 84 := by norm_num

theorem le_fix52_magnitudeAt {s : State} {a b k : Nat} (h : fix52 (magnitudeAt s a b k) ≠ 0) :
    2 ^ 52 ≤ fix52 (magnitudeAt s a b k) := by
  obtain ⟨hlo, -⟩ := (magnitudeAt_normal s a b k).fix52_bounds (mt fix52_eq_zero.2 h)
  exact (Nat.le_mul_of_pos_right _ (by positivity)).trans hlo

end Sys2Proof.Machine

namespace Sys2Proof.Proofs

open Sys2Proof.Machine Sys2Proof.Claims

/-- Settles O58: the converted integer is the nearest point, even at a tie, of a grid that holds every normalized value
from its binade on. -/
theorem integerConversionRoundsToNearestEven : Obligations.IntegerConversionRoundsToNearestEven := by
  unfold Obligations.IntegerConversionRoundsToNearestEven
  exact fun n => ⟨f64_normal n, fix52_f64_of_le, fun _ hy => f64_midpoints n hy⟩

/-- Settles O59: the rounded integer root of the radicand, a significand of 53 bits, keeps the sides of the midpoints
it has among the integers. -/
theorem squareRootRoundsToNearest : Obligations.SquareRootRoundsToNearest := by
  unfold Obligations.SquareRootRoundsToNearest
  refine fun x hx => ⟨f64Sqrt_normal hx, fun h0 => (f64Sqrt_zero h0).trans (hx.eq_zero h0).symm, fun y hy => ?_⟩
  by_cases h0 : x.sig = 0
  · have hroot : fix52 (f64Sqrt x) = 0 := fix52_eq_zero.2 ((f64Sqrt_sig_eq_zero hx).2 h0)
    rw [hroot, fix52_eq_zero.2 h0]
    exact ⟨fun h => absurd h (Nat.not_lt_zero _), fun h => by positivity⟩
  · exact f64Sqrt_midpoints hx h0 hy

/-- Settles O60, from the bound on an S32 value's square: no rounding passes 2^63, so the root's exponent is at most
31. -/
theorem magnitudesAreZeroOrAtLeastOne : Obligations.MagnitudesAreZeroOrAtLeastOne := by
  unfold Obligations.MagnitudesAreZeroOrAtLeastOne
  intro s a b k
  have hnormal := magnitudeAt_normal s a b k
  have hexp : (magnitudeAt s a b k).exp < 1024 := by have := magnitudeAt_exp_le s a b k; omega
  unfold magnitude
  refine ⟨sumOfSquares_cast s a b k, rfl, sumOfSquares_le s a b k, hnormal, ?_, fun h => ?_, ?_,
    f64Bits_lt hnormal hexp, (valueOfBits_f64Bits hnormal hexp).symm⟩
  · rw [Int.natCast_eq_zero, fix52_eq_zero, magnitudeAt_sig_eq_zero]
  · exact_mod_cast le_fix52_magnitudeAt (Int.natCast_ne_zero.1 h)
  · exact_mod_cast fix52_magnitudeAt_lt s a b k

end Sys2Proof.Proofs
end

section
/-! The register block: where each register lies, the bits of the STATUS, IRQ_EN and HP_BUF words, and what an access
does to STATUS (R21 to R45, R66, R67). -/

namespace Sys2Proof.Machine

/-! ### Bits and fields of a word (R8) -/

theorem bitAt_eq_decide (w : Word) (n : Nat) : bitAt w n = decide (w.toNat / 2 ^ n % 2 = 1) := by
  simp [bitAt, bitField]

theorem bitAt_toNat (w : Word) (n : Nat) : (bitAt w n).toNat = w.toNat / 2 ^ n % 2 := by
  rw [bitAt_eq_decide]
  rcases Nat.mod_two_eq_zero_or_one (w.toNat / 2 ^ n) with h | h <;> simp [h]

/-- Bit `lo + k` of a word is bit `k` of a field that starts at `lo` and reaches it. -/
theorem bitAt_of_bitField {hi lo k : Nat} (hk : lo + k ≤ hi) (w : Word) :
    bitAt w (lo + k) = (bitField w hi lo).testBit k := by
  have hin : k < hi + 1 - lo := by omega
  simp [bitAt_eq_decide, bitField, Nat.testBit_mod_two_pow, Nat.testBit_div_two_pow, hin, Nat.add_comm,
    ← Nat.testBit_eq_decide_div_mod_eq]

theorem bitField_low_half (w : Word) : bitField w 15 0 = w.toNat % 2 ^ 16 := by
  simp [bitField]

theorem bitField_high_half (w : Word) : bitField w 31 16 = w.toNat / 2 ^ 16 := by
  have := w.isLt
  simp only [bitField]
  omega

/-! ### The offsets (R21) -/

/-- The byte offset of a register in the block. -/
def Reg.offset : Reg → Nat
  | .id => 0x00
  | .caps => 0x04
  | .capsDim => 0x08
  | .imgDim => 0x0C
  | .cmdArg => 0x10
  | .cmd => 0x14
  | .status => 0x18
  | .irqEn => 0x1C
  | .scanMinLo => 0x20
  | .scanMinHi => 0x24
  | .scanMaxLo => 0x28
  | .scanMaxHi => 0x2C
  | .hpBuf => 0x30
  | .hpIdx => 0x34
  | .hpData => 0x38
  | .errInfo => 0x3C

theorem regAt_eq_some_iff {off : Nat} {r : Reg} : regAt off = some r ↔ off = r.offset := by
  constructor
  · unfold regAt
    split <;> simp only [Option.some.injEq, reduceCtorEq, false_implies] <;> rintro rfl <;> rfl
  · rintro rfl
    cases r <;> rfl

/-- No register lies at 0x40 or above (R45). -/
theorem regAt_eq_none {off : Nat} (h : 0x40 ≤ off) : regAt off = none := by
  rw [Option.eq_none_iff_forall_ne_some]
  intro r hr
  have hlt : r.offset < 0x40 := by cases r <;> decide
  rw [regAt_eq_some_iff] at hr
  omega

theorem hostWrite_offset (r : Reg) (v : Word) (s : State) : hostWrite r.offset v s = regWrite r v s := by
  rw [hostWrite, regAt_eq_some_iff.2 rfl]

/-- A read of any register but HP_DATA returns its value and has no side effect (R66). -/
theorem hostRead_offset {r : Reg} (hr : r ≠ .hpData) (s : State) : hostRead r.offset s = (regValue s r, s) := by
  rw [hostRead, regAt_eq_some_iff.2 rfl]
  cases r with
  | hpData => exact absurd rfl hr
  | _ => rfl

/-! ### The words of STATUS, IRQ_EN, HP_BUF and CAPS_DIM -/

theorem ErrCode.toNat_le (c : ErrCode) : c.toNat ≤ 6 := by cases c <;> decide

/-- Each flag and ERRCODE, as the bits of the STATUS word hold it (R28). -/
theorem Status.toWord_fields (st : Status) :
    bitField st.toWord 0 0 = st.busy.toNat ∧ bitField st.toWord 1 1 = st.done.toNat ∧
    bitField st.toWord 2 2 = st.err.toNat ∧ bitField st.toWord 3 3 = st.degen.toNat ∧
    bitField st.toWord 7 4 = st.errCode.toNat ∧ bitField st.toWord 8 8 = st.busyViol.toNat ∧
    bitField st.toWord 9 9 = st.hpErr.toNat ∧ bitField st.toWord 31 10 = 0 := by
  have := Bool.toNat_le st.busy
  have := Bool.toNat_le st.done
  have := Bool.toNat_le st.err
  have := Bool.toNat_le st.degen
  have := st.errCode.toNat_le
  have := Bool.toNat_le st.busyViol
  have := Bool.toNat_le st.hpErr
  simp only [bitField, Status.toWord, BitVec.toNat_ofNat]
  refine ⟨?_, ?_, ?_, ?_, ?_, ?_, ?_, ?_⟩ <;> omega

theorem bitAt_of_bitField_eq_toNat {w : Word} {n : Nat} {b : Bool} (h : bitField w n n = b.toNat) : bitAt w n = b := by
  simp [bitAt, h]

@[simp] theorem bitAt_toWord_busy (st : Status) : bitAt st.toWord 0 = st.busy :=
  bitAt_of_bitField_eq_toNat st.toWord_fields.1
@[simp] theorem bitAt_toWord_done (st : Status) : bitAt st.toWord 1 = st.done := by
  obtain ⟨-, h, -⟩ := st.toWord_fields
  exact bitAt_of_bitField_eq_toNat h
@[simp] theorem bitAt_toWord_err (st : Status) : bitAt st.toWord 2 = st.err := by
  obtain ⟨-, -, h, -⟩ := st.toWord_fields
  exact bitAt_of_bitField_eq_toNat h
@[simp] theorem bitAt_toWord_degen (st : Status) : bitAt st.toWord 3 = st.degen := by
  obtain ⟨-, -, -, h, -⟩ := st.toWord_fields
  exact bitAt_of_bitField_eq_toNat h
@[simp] theorem bitField_toWord_errCode (st : Status) : bitField st.toWord 7 4 = st.errCode.toNat := by
  obtain ⟨-, -, -, -, h, -⟩ := st.toWord_fields
  exact h
@[simp] theorem bitAt_toWord_busyViol (st : Status) : bitAt st.toWord 8 = st.busyViol := by
  obtain ⟨-, -, -, -, -, h, -⟩ := st.toWord_fields
  exact bitAt_of_bitField_eq_toNat h
@[simp] theorem bitAt_toWord_hpErr (st : Status) : bitAt st.toWord 9 = st.hpErr := by
  obtain ⟨-, -, -, -, -, -, h, -⟩ := st.toWord_fields
  exact bitAt_of_bitField_eq_toNat h
@[simp] theorem bitField_toWord_reserved (st : Status) : bitField st.toWord 31 10 = 0 := by
  obtain ⟨-, -, -, -, -, -, -, h⟩ := st.toWord_fields
  exact h

/-- Bits 4 to 7 of the STATUS word are those of ERRCODE. -/
theorem bitAt_toWord_errCode (st : Status) {n : Nat} (hlo : 4 ≤ n) (hhi : n ≤ 7) :
    bitAt st.toWord n = st.errCode.toNat.testBit (n - 4) := by
  obtain ⟨k, rfl⟩ := Nat.exists_eq_add_of_le hlo
  rw [bitAt_of_bitField hhi, bitField_toWord_errCode, Nat.add_sub_cancel_left]

theorem reset_toWord : Status.reset.toWord = 0 := by decide

/-- IRQ_EN keeps bits [2:0] of a word written (R36). -/
theorem IrqEn.toWord_ofWord_toNat (v : Word) : (IrqEn.ofWord v).toWord.toNat = v.toNat % 8 := by
  simp only [IrqEn.toWord, IrqEn.ofWord, bitAt_toNat, BitVec.toNat_ofNat]
  omega

/-- HP_BUF keeps bits [3:0] of a word written (R38). -/
theorem hpBuf_of_write_toNat (v : Word) : (BitVec.ofNat 4 (bitField v 3 0)).toNat = v.toNat % 16 := by
  simp [bitField]

/-- Neither half of CAPS_DIM runs into the other, for the parameters R7 allows (R24). -/
theorem regValue_capsDim_toNat {s : State} (h : s.params.wf) :
    (regValue s .capsDim).toNat = s.params.wmax * 2 ^ 16 + s.params.hmax := by
  obtain ⟨-, hh, -, hw⟩ := h
  simp only [regValue, BitVec.toNat_ofNat]
  omega

theorem extractLsb'_low_half_toNat (x : BitVec 64) : (x.extractLsb' 0 32).toNat = x.toNat % 2 ^ 32 := by
  simp

theorem extractLsb'_high_half_toNat (x : BitVec 64) : (x.extractLsb' 32 32).toNat = x.toNat / 2 ^ 32 := by
  have := x.isLt
  rw [BitVec.extractLsb'_toNat, Nat.shiftRight_eq_div_pow]
  omega

/-! ### What an access does to STATUS -/

@[simp] theorem clearOnes_busy (st : Status) (v : Word) : (st.clearOnes v).busy = st.busy := rfl
@[simp] theorem clearOnes_done (st : Status) (v : Word) : (st.clearOnes v).done = (st.done && !bitAt v 1) := rfl
@[simp] theorem clearOnes_err (st : Status) (v : Word) : (st.clearOnes v).err = (st.err && !bitAt v 2) := rfl
@[simp] theorem clearOnes_degen (st : Status) (v : Word) : (st.clearOnes v).degen = st.degen := rfl
@[simp] theorem clearOnes_errCode (st : Status) (v : Word) : (st.clearOnes v).errCode = st.errCode := rfl
@[simp] theorem clearOnes_busyViol (st : Status) (v : Word) :
    (st.clearOnes v).busyViol = (st.busyViol && !bitAt v 8) := rfl
@[simp] theorem clearOnes_hpErr (st : Status) (v : Word) : (st.clearOnes v).hpErr = (st.hpErr && !bitAt v 9) := rfl

theorem hostWrite_cmd_of_idle {s : State} (hb : s.status.busy = false) (w : Word) : hostWrite 0x14 w s = issue w s := by
  rw [show 0x14 = Reg.cmd.offset from rfl, hostWrite_offset, regWrite, unlessBusy, hb, if_neg Bool.false_ne_true]

theorem hostRead_status (s : State) : hostRead 0x18 s = (s.status.toWord, s) :=
  hostRead_offset (r := .status) nofun s

theorem hostWrite_status (v : Word) (s : State) :
    hostWrite 0x18 v s = { s with status := s.status.clearOnes v } := hostWrite_offset .status v s

/-- An access of a host port changes nothing of STATUS but a sticky flag, which it sets (R34, R35). -/
theorem portRead_status_cases (s : State) :
    (portRead s).2.status = s.status ∨ (portRead s).2.status = { s.status with busyViol := true } ∨
    (portRead s).2.status = { s.status with hpErr := true } := by
  rcases portRead_cases s with ⟨-, e⟩ | ⟨-, -, e⟩ | ⟨-, -, e⟩ <;> simp [e]

theorem portWrite_status_cases (v : Word) (s : State) :
    (portWrite v s).status = s.status ∨ (portWrite v s).status = { s.status with busyViol := true } ∨
    (portWrite v s).status = { s.status with hpErr := true } := by
  rcases portWrite_cases v s with ⟨-, e⟩ | ⟨-, -, e⟩ | ⟨-, -, e⟩ <;> simp [e]

theorem hostRead_status_cases (off : Nat) (s : State) :
    (hostRead off s).2.status = s.status ∨ (hostRead off s).2.status = { s.status with busyViol := true } ∨
    (hostRead off s).2.status = { s.status with hpErr := true } := by
  rcases hostRead_cases off s with e | ⟨-, e⟩ <;> rw [e]
  · exact .inl rfl
  · exact portRead_status_cases s

/-- Everything a register write can do to STATUS: it sets a sticky flag at most, unless it issues a command or is a
write to STATUS itself (R28, R34, R35, R231). -/
theorem hostWrite_status_cases (off : Nat) (v : Word) (s : State) :
    (hostWrite off v s).status = s.status ∨
    (hostWrite off v s).status = { s.status with busyViol := true } ∨
    (hostWrite off v s).status = { s.status with hpErr := true } ∨
    (off = 0x14 ∧ s.status.busy = false ∧ hostWrite off v s = issue v s) ∨
    (off = 0x18 ∧ (hostWrite off v s).status = s.status.clearOnes v) := by
  rcases hostWrite_cases off v s with
    e | ⟨-, e⟩ | ⟨-, e⟩ | ⟨-, e⟩ | ⟨hb, hr, e⟩ | ⟨hr, e⟩ | e | e | e | e
  · exact .inl (by rw [e])
  · exact .inr (.inl (by rw [e]; rfl))
  · exact .inl (by rw [e])
  · exact .inl (by rw [e])
  · exact .inr (.inr (.inr (.inl ⟨regAt_eq_some_iff.1 hr, hb, e⟩)))
  · exact .inr (.inr (.inr (.inr ⟨regAt_eq_some_iff.1 hr, by rw [e]⟩)))
  · exact .inl (by rw [e])
  · exact .inl (by rw [e])
  · exact .inl (by rw [e])
  · rw [e]
    rcases portWrite_status_cases v s with h | h | h
    · exact .inl h
    · exact .inr (.inl h)
    · exact .inr (.inr (.inl h))

end Sys2Proof.Machine

namespace Sys2Proof.Proofs

open Sys2Proof.Machine

/-- Settles O19: no register lies there. -/
theorem reservedOffsetsReadZeroIgnoreWrites : Obligations.ReservedOffsetsReadZeroIgnoreWrites := by
  unfold Obligations.ReservedOffsetsReadZeroIgnoreWrites
  intro off s v hlo _
  simp [hostRead, hostWrite, regAt_eq_none hlo]

/-- Settles O20: the write arm of each of these registers is the identity, and each reads its value. -/
theorem readOnlyRegistersIgnoreWrites : Obligations.ReadOnlyRegistersIgnoreWrites := by
  unfold Obligations.ReadOnlyRegistersIgnoreWrites
  refine ⟨fun s v off hoff => ?_, fun s => ⟨rfl, rfl, fun hp => regValue_capsDim_toNat hp, ?_⟩⟩
  · fin_cases hoff <;> exact ⟨rfl, rfl⟩
  · exact ⟨extractLsb'_low_half_toNat _, extractLsb'_high_half_toNat _, extractLsb'_low_half_toNat _,
      extractLsb'_high_half_toNat _, rfl⟩

/-- Settles O15: both writes are `unlessBusy`, and a half of a register is a field of 16 bits. -/
theorem operandRegistersReadBackOrIgnore : Obligations.OperandRegistersReadBackOrIgnore := by
  unfold Obligations.OperandRegistersReadBackOrIgnore
  intro s v
  have hdim : hostWrite 0x0C v s = unlessBusy s { s with imgDim := v } := hostWrite_offset .imgDim v s
  have harg : hostWrite 0x10 v s = unlessBusy s { s with cmdArg := v } := hostWrite_offset .cmdArg v s
  refine ⟨fun hb => ?_, fun hb off hoff => ?_, rfl, rfl, bitField_low_half _, bitField_high_half _,
    bitField_low_half _, bitField_high_half _⟩
  · simp [hdim, harg, unlessBusy, hb]
  · fin_cases hoff
    · simp [hdim, unlessBusy, hb, setBusyViol]
    · simp [harg, unlessBusy, hb, setBusyViol]

/-- Settles O14: the write is `unlessBusy` of the issue step. -/
theorem cmdWriteIssuesOrIsDropped : Obligations.CmdWriteIssuesOrIsDropped := by
  unfold Obligations.CmdWriteIssuesOrIsDropped
  intro s w
  have hcmd : hostWrite 0x14 w s = unlessBusy s (issue w s) := hostWrite_offset .cmd w s
  refine ⟨fun hb => ?_, fun hb => ?_, hostRead_offset (r := .cmd) nofun s⟩
  · rw [hostWrite_cmd_of_idle hb]; rfl
  · rw [hcmd, unlessBusy, if_pos hb]; rfl

/-- Settles O21: no write of these three asks for BUSY, and what is read back is the field of the word written. -/
theorem plainRegistersKeepTheirWritableBits : Obligations.PlainRegistersKeepTheirWritableBits := by
  unfold Obligations.PlainRegistersKeepTheirWritableBits
  intro s v
  refine ⟨⟨IrqEn.toWord_ofWord_toNat v, rfl⟩, ⟨?_, rfl⟩, ⟨rfl, rfl⟩, fun off hoff => ?_⟩
  · have hread : (hostRead 0x30 (hostWrite 0x30 v s)).1 = (BitVec.ofNat 4 (bitField v 3 0)).setWidth 32 := rfl
    rw [hread, BitVec.toNat_setWidth, hpBuf_of_write_toNat]
    omega
  · fin_cases hoff <;> rfl

/-- Settles O24: each bit of the word is the field R28 puts there, and a write acts on the fields. -/
theorem statusWriteClearsWhereOne : Obligations.StatusWriteClearsWhereOne := by
  unfold Obligations.StatusWriteClearsWhereOne
  refine ⟨fun s v => ?_, fun p => (congrArg Prod.fst (hostRead_status _)).trans reset_toWord⟩
  rw [hostWrite_status, hostRead_status, hostRead_status]
  refine ⟨fun n hn => ?_, fun n hn => ?_, by simp⟩
  · have hn' : n = 1 ∨ n = 2 ∨ n = 8 ∨ n = 9 := by simpa using hn
    rcases hn' with rfl | rfl | rfl | rfl <;> simp
  · have hn' : n = 0 ∨ n = 3 ∨ (4 ≤ n ∧ n ≤ 7) := by simp at hn; omega
    rcases hn' with rfl | rfl | ⟨hlo, hhi⟩
    · simp
    · simp
    · simp [bitAt_toWord_errCode _ hlo hhi]

end Sys2Proof.Proofs
end

section
/-! The life of a command (R230 to R235): its word is decoded back, the engine's turn completes it, and what the
completion does to STATUS. -/

namespace Sys2Proof.Machine

/-! ### The decoder on the encoder's words -/

theorem encode_fields (i : Instr) : Laws.EncodedFields.Statement i := by
  cases i with
  | nop => exact Laws.EncodedFields.nop
  | pad d a => exact Laws.EncodedFields.pad d a
  | median d a => exact Laws.EncodedFields.median d a
  | convH d a => exact Laws.EncodedFields.convH d a
  | convV d a => exact Laws.EncodedFields.convV d a
  | convD45 d a => exact Laws.EncodedFields.convD45 d a
  | convD135 d a => exact Laws.EncodedFields.convD135 d a
  | norm d a => exact Laws.EncodedFields.norm d a
  | magnorm d a b => exact Laws.EncodedFields.magnorm d a b
  | window d a => exact Laws.EncodedFields.window d a

/-- The decoder reads a well-formed command back from its word (R95, R98). -/
theorem decode_encode {i : Instr} (h : i.wf = true) : decode (encode i) = .instr i := by
  obtain ⟨hrsvd, hfields⟩ := encode_fields i h
  cases i
  case nop => decide
  all_goals
    simp only [Laws.EncodedFields.expected, Prod.mk.injEq] at hfields
    obtain ⟨hop, hksel, hdst, hsrca, hsrcb⟩ := hfields
    simp [decode, decodeConv, plainOrIllegal, hrsvd, hop, hksel, hdst, hsrca, hsrcb]

/-! ### The completion step -/

/-- Where the engine moves next, the step is the completion, of the state with that turn taken. -/
theorem step_of_engineNext {s : State} {later : List Turn} (h : Claims.engineNext s later) :
    step s = complete { s with turns := later } := by
  obtain ⟨hb, ht | ⟨ht, rfl⟩⟩ := h
  · simp [step, ht, engineTurn, hb]
  · have hs : { s with turns := [] } = s := by rw [← ht]
    simp [step, ht, engineTurn, hb, hs]

theorem complete_of_decode {s : State} {i : Instr} (h : decode s.cmd = .instr i) : complete s = exec i s := by
  rw [complete, h]

/-- The two ends of a completion, with what each leaves of every register: a failure with a cause (R262), or `done()`,
which reports no error and touches no other register than DEGEN and SCAN (R233). -/
theorem complete_fails_or_done {s t : State} (h : complete s = .next t) :
    (∃ code info, code ≠ .none ∧ t = commandFail code info s) ∨
    t = { s with status := { s.status with done := true, busy := false, degen := t.status.degen }
                 scanMin := t.scanMin, scanMax := t.scanMax, mem := t.mem } := by
  obtain ⟨u, hu, hends⟩ := complete_ends s
  obtain rfl : u = t := by simpa [hu] using h
  rcases hends with ⟨code, hc, -, rfl⟩ | ⟨i, -, -, hi⟩
  · exact .inl ⟨code, 0, hc, rfl⟩
  · cases hi with
    | fails code info hc => exact .inl ⟨code, info, hc, rfl⟩
    | nothing => exact .inr rfl
    | commits => exact .inr rfl
    | normalizes => exact .inr rfl

end Sys2Proof.Machine

namespace Sys2Proof.Proofs

open Sys2Proof.Machine Sys2Proof.Claims

/-- Settles O11: the engine's turn is the completion, which runs the decoded command. -/
theorem engineTurnRunsTheDecodedCommand : Obligations.EngineTurnRunsTheDecodedCommand := by
  unfold Obligations.EngineTurnRunsTheDecodedCommand
  exact fun s later i hnext hi => (step_of_engineNext hnext).trans (complete_of_decode hi)

/-- Settles O12: the write is an issue, which leaves BUSY and the word, and the word decodes back. -/
theorem commandWrittenToCmdRunsNext : Obligations.CommandWrittenToCmdRunsNext := by
  unfold Obligations.CommandWrittenToCmdRunsNext
  intro s i later hwf hb hturns
  rw [hostWrite_cmd_of_idle hb]
  have hnext : engineNext (issue (encode i) s) later := ⟨rfl, .inl hturns⟩
  exact (step_of_engineNext hnext).trans (complete_of_decode (decode_encode hwf))

/-- Settles O29: only issue, a completion's two ends and a write to STATUS write BUSY or DONE. -/
theorem busyAndDoneFollowTheCommand : Obligations.BusyAndDoneFollowTheCommand := by
  unfold Obligations.BusyAndDoneFollowTheCommand
  refine ⟨fun s w hb => ?_, fun s t ht => ?_, fun s off v hno => ?_, fun s v hv => ?_⟩
  · rw [hostWrite_cmd_of_idle hb]
    exact ⟨rfl, rfl⟩
  · rcases complete_fails_or_done ht with ⟨code, info, -, rfl⟩ | e
    · exact ⟨rfl, rfl⟩
    · rw [e]
      exact ⟨rfl, rfl⟩
  · rcases hostWrite_status_cases off v s with e | e | e | ⟨hoff, hb, -⟩ | ⟨-, e⟩
    · rw [e]
    · rw [e]
    · rw [e]
    · exact absurd ⟨hoff, hb⟩ hno
    · rw [e, clearOnes_busy]
  · simp [hostWrite_status, hv]

/-- Settles O30: issue clears both, and only the failing end of a completion sets them, together. -/
theorem errAndErrCodeFollowTheOutcome : Obligations.ErrAndErrCodeFollowTheOutcome := by
  unfold Obligations.ErrAndErrCodeFollowTheOutcome
  refine ⟨fun s w hb => ?_, fun s t hf ht => ?_, fun s v hv => ?_⟩
  · rw [hostWrite_cmd_of_idle hb]
    exact ⟨rfl, rfl⟩
  · obtain ⟨-, -, herr, -, hcode, -⟩ := hf
    rcases complete_fails_or_done ht with ⟨code, info, hc, rfl⟩ | e
    · exact .inl ⟨rfl, hc, code, BitVec.ofNat 32 info, rfl⟩
    · rw [e]
      exact .inr ⟨herr, hcode⟩
  · simp [hostWrite_status, hv]

/-- Settles O31: a completion writes neither flag, a port access only sets one, and a write clears one only through
`Status.clearOnes`. -/
theorem violationFlagsAreSticky : Obligations.ViolationFlagsAreSticky := by
  unfold Obligations.ViolationFlagsAreSticky
  refine ⟨fun s t ht => ?_, fun s off => ?_, fun s off v => ?_⟩
  · rcases complete_fails_or_done ht with ⟨code, info, -, rfl⟩ | e
    · exact ⟨rfl, rfl⟩
    · rw [e]
      exact ⟨rfl, rfl⟩
  · rcases hostRead_status_cases off s with e | e | e <;> simp [e]
  · by_cases hoff : off = 0x18
    · subst hoff
      simp +contextual [hostWrite_status]
    · rcases hostWrite_status_cases off v s with e | e | e | ⟨-, -, e⟩ | ⟨h, -⟩
      case inr.inr.inr.inr => exact absurd h hoff
      all_goals simp +contextual [e, hoff]

end Sys2Proof.Proofs
end

section
/-! What a command reads: the parameters, IMG_DIM, CMD_ARG and the frame buffers (R43). Two states that agree on these
end a command in the same way, whatever else they hold. -/

namespace Sys2Proof.Machine

/-! ### The inputs of a command -/

/-- The state with everything but the inputs of a command forgotten (R43). -/
def inputsOf (s : State) : State :=
  { State.resetWith s.params with imgDim := s.imgDim, cmdArg := s.cmdArg, mem := s.mem, epoch := s.epoch }

theorem inputsOf_eq_iff {s s' : State} : inputsOf s' = inputsOf s ↔
    s'.params = s.params ∧ s'.imgDim = s.imgDim ∧ s'.cmdArg = s.cmdArg ∧ s'.mem = s.mem ∧
      s'.epoch = s.epoch := by
  simp [inputsOf, State.resetWith]

/-- A function that reads the inputs only agrees on states with the same inputs. -/
theorem congr_of_inputsOf {α : Type*} {f : State → α} (hf : ∀ s, f (inputsOf s) = f s) {s s' : State}
    (h : inputsOf s' = inputsOf s) : f s' = f s := by
  rw [← hf s', h, hf s]

section
variable {s s' : State} (h : inputsOf s' = inputsOf s)
include h

theorem imageCheck_congr_inputs (bufs : List Nat) : imageCheck bufs s' = imageCheck bufs s :=
  congr_of_inputsOf (f := imageCheck bufs) (fun _ => rfl) h
theorem validCentre_congr_inputs : validCentre s' ↔ validCentre s :=
  iff_of_eq (congr_of_inputsOf (f := validCentre) (fun _ => rfl) h)
theorem padOutput_congr_inputs (a : Nat) : padOutput s' a = padOutput s a :=
  congr_of_inputsOf (f := (padOutput · a)) (fun _ => rfl) h
theorem windowOutput_congr_inputs (a : Nat) : windowOutput s' a = windowOutput s a :=
  congr_of_inputsOf (f := (windowOutput · a)) (fun _ => rfl) h
theorem medianOutput_congr_inputs (a : Nat) : medianOutput s' a = medianOutput s a :=
  congr_of_inputsOf (f := (medianOutput · a)) (fun _ => rfl) h
theorem convOutput_congr_inputs (K : Kernel) (a : Nat) : convOutput K s' a = convOutput K s a :=
  congr_of_inputsOf (f := (convOutput K · a)) (fun _ => rfl) h
theorem sourceOf_congr_inputs (a : Nat) : sourceOf s' a = sourceOf s a :=
  congr_of_inputsOf (f := (sourceOf · a)) (fun _ => rfl) h
theorem magnitudesOf_congr_inputs (a b : Nat) : magnitudesOf s' a b = magnitudesOf s a b :=
  congr_of_inputsOf (f := (magnitudesOf · a b)) (fun _ => rfl) h

end

/-! ### The same end in two states -/

/-- A command ends in the same way in `s` and in `s'`: with the same failure, or with the same output, DEGEN and
SCAN. -/
inductive EndsAlike (s s' : State) : State → State → Prop where
  | fails (code : ErrCode) (info : Nat) : EndsAlike s s' (commandFail code info s) (commandFail code info s')
  | nothing : EndsAlike s s' (commandDone s) (commandDone s')
  | commits (d : Nat) (out : List Int) :
      EndsAlike s s' (commandDone (writeBuffer d out s)) (commandDone (writeBuffer d out s'))
  | normalizes (d : Nat) (out : List Int) (g : Bool) (lo hi : BitVec 64) :
      EndsAlike s s' (commitNormalized d out g lo hi s) (commitNormalized d out g lo hi s')

section
variable {s s' : State} (h : inputsOf s' = inputsOf s)
include h

theorem runChecked_endsAlike (bufs : List Nat) {body : State → State} (hbody : EndsAlike s s' (body s) (body s')) :
    EndsAlike s s' (runChecked bufs body s) (runChecked bufs body s') := by
  simp only [runChecked, imageCheck_congr_inputs h]
  cases imageCheck bufs s with
  | none => exact hbody
  | some code => exact .fails code 0

theorem convolve_endsAlike (K : Kernel) (d a : Nat) : EndsAlike s s' (convolve K d a s) (convolve K d a s') := by
  refine runChecked_endsAlike h [d, a] ?_
  simp only [convOutput_congr_inputs h]
  cases firstOverflow (convOutput K s a) with
  | none => exact .commits d _
  | some k => exact .fails .overflow k

/-- What a command does is decided by its inputs. -/
theorem exec_endsAlike (i : Instr) : ∃ t t', exec i s = .next t ∧ exec i s' = .next t' ∧ EndsAlike s s' t t' := by
  cases i with
  | nop => exact ⟨_, _, rfl, rfl, .nothing⟩
  | pad d a =>
    refine ⟨_, _, rfl, rfl, runChecked_endsAlike h _ ?_⟩
    rw [padOutput_congr_inputs h]
    exact .commits d _
  | median d a =>
    refine ⟨_, _, rfl, rfl, runChecked_endsAlike h _ ?_⟩
    rw [medianOutput_congr_inputs h]
    exact .commits d _
  | convH d a => exact ⟨_, _, rfl, rfl, convolve_endsAlike h .horizontal d a⟩
  | convV d a => exact ⟨_, _, rfl, rfl, convolve_endsAlike h .vertical d a⟩
  | convD45 d a => exact ⟨_, _, rfl, rfl, convolve_endsAlike h .diag45 d a⟩
  | convD135 d a => exact ⟨_, _, rfl, rfl, convolve_endsAlike h .diag135 d a⟩
  | norm d a =>
    refine ⟨_, _, rfl, rfl, runChecked_endsAlike h _ ?_⟩
    rw [sourceOf_congr_inputs h]
    exact .normalizes d _ _ _ _
  | magnorm d a b =>
    refine ⟨_, _, rfl, rfl, runChecked_endsAlike h _ ?_⟩
    rw [magnitudesOf_congr_inputs h]
    exact .normalizes d _ _ _ _
  | window d a =>
    refine ⟨_, _, rfl, rfl, runChecked_endsAlike h _ ?_⟩
    rw [windowOutput_congr_inputs h]
    by_cases hc : validCentre s
    · rw [if_pos hc, if_pos ((validCentre_congr_inputs h).2 hc)]
      exact .commits d _
    · rw [if_neg hc, if_neg (mt (validCentre_congr_inputs h).1 hc)]
      exact .fails .badArg 0

end

/-- What a command in flight leaves, in two states that end it alike: the same buffers and outcome fields, and the same
SCAN where SCAN is written. -/
theorem EndsAlike.outcome {s s' t t' : State} (h : EndsAlike s s' t t') (hm : s'.mem = s.mem) (hf : InFlight s)
    (hf' : InFlight s') :
    t'.mem = t.mem ∧ t'.status.err = t.status.err ∧ t'.status.errCode = t.status.errCode ∧
    t'.status.degen = t.status.degen ∧ t'.errInfo = t.errInfo ∧
    ((t'.scanMin = t.scanMin ∧ t'.scanMax = t.scanMax) ∨
     (t.scanMin = s.scanMin ∧ t.scanMax = s.scanMax ∧ t'.scanMin = s'.scanMin ∧ t'.scanMax = s'.scanMax)) := by
  obtain ⟨-, -, herr, hdegen, hcode, hinfo⟩ := hf
  obtain ⟨-, -, herr', hdegen', hcode', hinfo'⟩ := hf'
  cases h with
  | fails code info => simp [hm, hdegen, hdegen']
  | nothing => simp [hm, herr, herr', hdegen, hdegen', hcode, hcode', hinfo, hinfo']
  | commits d out => simp [hm, herr, herr', hdegen, hdegen', hcode, hcode', hinfo, hinfo']
  | normalizes d out g lo hi =>
    simp [commitNormalized, hm, herr, herr', hdegen, hdegen', hcode, hcode', hinfo, hinfo']

end Sys2Proof.Machine

namespace Sys2Proof.Proofs

open Sys2Proof.Machine

/-- Settles O33: the inputs decide how a command ends, and issue has cleared what a clean end does not write. -/
theorem commandOutcomeIgnoresFlags : Obligations.CommandOutcomeIgnoresFlags := by
  unfold Obligations.CommandOutcomeIgnoresFlags
  intro i s s' t t' hparams hdim harg hmem hepoch hf hf' ht ht'
  obtain ⟨u, u', hu, hu', halike⟩ := exec_endsAlike (inputsOf_eq_iff.2 ⟨hparams, hdim, harg, hmem, hepoch⟩) i
  obtain rfl : u = t := by simpa [hu] using ht
  obtain rfl : u' = t' := by simpa [hu'] using ht'
  exact halike.outcome hmem hf hf'

end Sys2Proof.Proofs
end

section
/-! The host port (R69 to R73): what an access of HP_DATA does while busy, out of range and in range, and what a stored
word leaves in the frame buffers. -/

namespace Sys2Proof.Machine

/-! ### The three outcomes of an access -/

theorem hostRead_hpData (s : State) : hostRead 0x38 s = portRead s := by
  rw [hostRead, regAt_eq_some_iff.2 (show 0x38 = Reg.hpData.offset from rfl)]

theorem hostWrite_hpData (v : Word) (s : State) : hostWrite 0x38 v s = portWrite v s := hostWrite_offset .hpData v s

section
variable {s : State}

theorem portRead_of_busy (hb : s.status.busy = true) : portRead s = (0, setBusyViol s) := by
  rw [portRead, if_pos hb]

theorem portWrite_of_busy (hb : s.status.busy = true) (v : Word) : portWrite v s = setBusyViol s := by
  rw [portWrite, if_pos hb]

theorem portRead_of_outOfRange (hb : s.status.busy = false) (hr : ¬ portInRange s) : portRead s = (0, setHpErr s) := by
  rw [portRead, hb, if_neg Bool.false_ne_true, if_pos hr]

theorem portWrite_of_outOfRange (hb : s.status.busy = false) (hr : ¬ portInRange s) (v : Word) :
    portWrite v s = setHpErr s := by
  rw [portWrite, hb, if_neg Bool.false_ne_true, if_pos hr]

theorem portRead_of_inRange (hb : s.status.busy = false) (hr : portInRange s) :
    portRead s = (elemWord s s.hpBuf.toNat s.hpIdx.toNat, { s with hpIdx := s.hpIdx + 1 }) := by
  rw [portRead, hb, if_neg Bool.false_ne_true, if_neg (not_not_intro hr)]

theorem portWrite_of_inRange (hb : s.status.busy = false) (hr : portInRange s) (v : Word) :
    portWrite v s = { s with
      mem := s.mem.store (elemAddr s.hpBuf.toNat s.hpIdx.toNat) v, hpIdx := s.hpIdx + 1 } := by
  rw [portWrite, hb, if_neg Bool.false_ne_true, if_neg (not_not_intro hr)]

end

/-! ### The element index and the stored word -/

/-- The largest CAP that R7 allows, 65535², leaves room for HP_IDX to advance. -/
theorem capOf_lt_two_pow {p : Params} (h : p.wf) : capOf p < 2 ^ 32 := by
  obtain ⟨-, hh, -, hw⟩ := h
  calc capOf p ≤ 65535 * 65535 := Nat.mul_le_mul (by omega) (by omega)
    _ < 2 ^ 32 := by norm_num

/-- HP_IDX does not wrap when it advances from an index in range (R70, R71). -/
theorem hpIdx_succ_toNat {s : State} (hp : s.params.wf) (hr : portInRange s) :
    (s.hpIdx + 1).toNat = s.hpIdx.toNat + 1 := by
  obtain ⟨-, hidx⟩ := hr
  have hcap := capOf_lt_two_pow hp
  have hlt : s.hpIdx.toNat + (1 : Word).toNat < 2 ^ 32 := Nat.lt_of_le_of_lt hidx hcap
  exact BitVec.toNat_add_of_lt hlt

/-- Distinct elements have distinct keys, so a store reaches the addressed one only, whatever HP_IDX is then. -/
theorem elemWord_store {b c : Nat} (hb : b < Config.nbuf) (hc : c < Config.nbuf) (s : State) (j : Nat) (v idx : Word)
    (k : Nat) : elemWord { s with mem := s.mem.store (elemAddr c j) v, hpIdx := idx } b k =
      if b = c ∧ k = j then v else elemWord s b k := by
  simp only [elemWord, find_store, elemAddr_inj hb hc]
  split_ifs <;> rfl

end Sys2Proof.Machine

namespace Sys2Proof.Proofs

open Sys2Proof.Machine

/-- Settles O16: BUSY is the first thing a port access asks for. -/
theorem hostPortIsBlockedWhileBusy : Obligations.HostPortIsBlockedWhileBusy := by
  unfold Obligations.HostPortIsBlockedWhileBusy
  intro s v hb
  rw [hostRead_hpData, hostWrite_hpData]
  exact ⟨portRead_of_busy hb, portWrite_of_busy hb v⟩

/-- Settles O25: either bound exceeded puts the port out of range. -/
theorem hostPortOutOfRangeSetsHpErr : Obligations.HostPortOutOfRangeSetsHpErr := by
  unfold Obligations.HostPortOutOfRangeSetsHpErr
  intro s v hb hout
  have hr : ¬ portInRange s := fun ⟨hbuf, hidx⟩ => hout.elim hbuf.not_ge hidx.not_ge
  rw [hostRead_hpData, hostWrite_hpData]
  exact ⟨portRead_of_outOfRange hb hr, portWrite_of_outOfRange hb hr v⟩

/-- Settles O26: the write is one `Memory.store`, and distinct elements have distinct keys. -/
theorem hostPortMovesOneElement : Obligations.HostPortMovesOneElement := by
  unfold Obligations.HostPortMovesOneElement
  intro s v hp hb hbuf hidx
  have hr : portInRange s := ⟨hbuf, hidx⟩
  rw [hostRead_hpData, hostWrite_hpData, portWrite_of_inRange hb hr v]
  refine ⟨portRead_of_inRange hb hr, hpIdx_succ_toNat hp hr, _, rfl, rfl, ?_, ?_, fun b k hb' hne => ?_⟩
  · rw [hostRead_hpData, portRead_of_inRange]
    · exact (elemWord_store hbuf hbuf s _ v _ _).trans (if_pos ⟨rfl, rfl⟩)
    · exact hb
    · exact hr
  · rw [elem, elemWord_store hbuf hbuf, if_pos ⟨rfl, rfl⟩]
  · rw [elemWord_store hb' hbuf, if_neg (not_and_or.2 hne)]

end Sys2Proof.Proofs
end

section
/-! The bus (R60, R64, R65) and the host agent that drives it (R76, R106 to R110): which accesses reach a register, and
what each operation of the host's program does at the host's turn. -/

namespace Sys2Proof.Machine

/-! ### The lanes of a word -/

/-- Four byte lanes, lowest first, carry the word they were cut from (R64). -/
theorem ofLanes_extractLsb' (v : Word) :
    ofLanes [v.extractLsb' 0 8, v.extractLsb' 8 8, v.extractLsb' 16 8, v.extractLsb' 24 8] = some v := by
  have := v.isLt
  rw [ofLanes, Option.some.injEq]
  apply BitVec.eq_of_toNat_eq
  simp only [BitVec.extractLsb'_toNat, BitVec.toNat_ofNat, Nat.shiftRight_eq_div_pow]
  omega

/-- Any other number of lanes carries no word (R65). -/
theorem ofLanes_eq_none {lanes : List Byte} (h : lanes.length ≠ 4) : ofLanes lanes = none := by
  unfold ofLanes
  split
  · exact absurd rfl h
  · rfl

/-! ### Accesses of the block -/

/-- The block is the 256 bytes from ENGINE_BASE (R21, R60). -/
theorem blockOffset_base_add (p : Params) {off : Nat} (h : off < 256) :
    blockOffset p (p.engineBase + off) = some off := by
  rw [blockOffset, if_pos (by omega), Nat.add_sub_cancel_left]

section
variable (s : State) {off : Nat} (h : off < 256)
include h

theorem busRead_of_aligned (ha : off % 4 = 0) :
    busRead (s.params.engineBase + off) 4 s = (some (hostRead off s).1, (hostRead off s).2) := by
  simp [busRead, blockOffset_base_add s.params h, ha]

theorem busRead_of_odd {size : Nat} (ho : size ≠ 4 ∨ off % 4 ≠ 0) :
    busRead (s.params.engineBase + off) size s = (some 0, s) := by
  have hno : ¬ (size = 4 ∧ off % 4 = 0) := by omega
  simp [busRead, blockOffset_base_add s.params h, hno]

theorem busWrite_of_aligned (ha : off % 4 = 0) {lanes : List Byte} {v : Word} (hv : ofLanes lanes = some v) :
    busWrite (s.params.engineBase + off) lanes s = hostWrite off v s := by
  simp [busWrite, blockOffset_base_add s.params h, hv, ha]

theorem busWrite_of_odd {lanes : List Byte} (ho : lanes.length ≠ 4 ∨ off % 4 ≠ 0) :
    busWrite (s.params.engineBase + off) lanes s = s := by
  rcases ho with hl | ha
  · simp [busWrite, ofLanes_eq_none hl]
  · cases hv : ofLanes lanes with
    | none => simp [busWrite, hv]
    | some v => simp [busWrite, blockOffset_base_add s.params h, hv, ha]

end

/-! ### No access moves the host agent -/

@[simp] theorem portRead_host (s : State) : (portRead s).2.host = s.host := by
  rcases portRead_cases s with ⟨-, e⟩ | ⟨-, -, e⟩ | ⟨-, -, e⟩ <;> rw [e] <;> rfl

@[simp] theorem portWrite_host (v : Word) (s : State) : (portWrite v s).host = s.host := by
  rcases portWrite_cases v s with ⟨-, e⟩ | ⟨-, -, e⟩ | ⟨-, -, e⟩ <;> rw [e] <;> rfl

@[simp] theorem hostRead_host (off : Nat) (s : State) : (hostRead off s).2.host = s.host := by
  rcases hostRead_cases off s with e | ⟨-, e⟩ <;> rw [e]
  exact portRead_host s

@[simp] theorem hostWrite_host (off : Nat) (v : Word) (s : State) : (hostWrite off v s).host = s.host := by
  rcases hostWrite_cases off v s with
    e | ⟨-, e⟩ | ⟨-, e⟩ | ⟨-, e⟩ | ⟨-, -, e⟩ | ⟨-, e⟩ | e | e | e | e <;> simp [e]

@[simp] theorem busRead_host (addr size : Nat) (s : State) : (busRead addr size s).2.host = s.host := by
  rcases busRead_cases addr size s with e | ⟨off, e⟩ <;> rw [e]
  exact hostRead_host off s

@[simp] theorem busWrite_host (addr : Nat) (lanes : List Byte) (s : State) :
    (busWrite addr lanes s).host = s.host := by
  rcases busWrite_cases addr lanes s with e | ⟨off, v, e⟩ <;> rw [e]
  exact hostWrite_host off v s

/-! ### The host's turn, by the operation at the head of its program -/

section
variable {s : State} {rest : List HostOp}

theorem hostTurn_of_over (h : s.host.stopped = true ∨ s.host.program = []) : hostTurn s = s := by
  rcases h with h | h <;> simp [hostTurn, h]

theorem hostTurn_read {addr size : Nat} (hs : s.host.stopped = false)
    (hprog : s.host.program = .read addr size :: rest) :
    hostTurn s = { (busRead addr size s).2 with
      host := { program := rest, reads := s.host.reads ++ (busRead addr size s).1.toList, stopped := false } } := by
  simp [hostTurn, hs, hprog, hostGoesOn, hostNotes]

theorem hostTurn_write {addr : Nat} {lanes : List Byte} (hs : s.host.stopped = false)
    (hprog : s.host.program = .write addr lanes :: rest) :
    hostTurn s = { busWrite addr lanes s with host := { s.host with program := rest } } := by
  simp [hostTurn, hs, hprog, hostGoesOn]

theorem hostTurn_waitIdle (hs : s.host.stopped = false) (hprog : s.host.program = .waitIdle :: rest) :
    hostTurn s = if s.status.busy then s else { s with host := { s.host with program := rest } } := by
  simp [hostTurn, hs, hprog, hostRead_status, hostGoesOn]

theorem hostTurn_stopIfErr (hs : s.host.stopped = false) (hprog : s.host.program = .stopIfErr :: rest) :
    hostTurn s = { s with
      host := if s.status.err then { s.host with stopped := true } else { s.host with program := rest } } := by
  cases he : s.status.err <;> simp [hostTurn, hs, hprog, hostRead_status, he, hostGoesOn, hostStops]

/-- Where the host moves next, the step is its turn, in the state with that turn taken. -/
theorem step_of_hostNext {later : List Turn} (h : Claims.hostNext s later) :
    step s = .next (hostTurn { s with turns := later }) := by
  rcases h with ht | ⟨ht, hb, rfl⟩
  · simp [step, ht]
  · have hs : { s with turns := [] } = s := by rw [← ht]
    simp [step, ht, hb, hs]

end

end Sys2Proof.Machine

namespace Sys2Proof.Proofs

open Sys2Proof.Machine

/-- Settles O22: an odd access reaches no register. -/
theorem oddAccessesAreIgnored : Obligations.OddAccessesAreIgnored := by
  unfold Obligations.OddAccessesAreIgnored
  exact fun s off h => ⟨fun size ho => busRead_of_odd s h ho, fun lanes ho => busWrite_of_odd s h ho⟩

/-- Settles O23: the lanes carry the word written, and the step is the host's turn, by its next operation. -/
theorem alignedWordAccessesReachTheRegister : Obligations.AlignedWordAccessesReachTheRegister := by
  unfold Obligations.AlignedWordAccessesReachTheRegister
  refine ⟨fun s off v h ha =>
    ⟨busRead_of_aligned s h ha, busWrite_of_aligned s h ha (ofLanes_extractLsb' v)⟩, ?_⟩
  rintro s u later rest hnext rfl
  rw [step_of_hostNext hnext]
  simp only [Host.Outcome.next.injEq]
  exact ⟨fun hover => hostTurn_of_over hover, fun hs =>
    ⟨fun _ _ hprog => hostTurn_read hs hprog, fun _ _ hprog => hostTurn_write hs hprog,
      fun hprog => hostTurn_waitIdle hs hprog, fun hprog => hostTurn_stopIfErr hs hprog⟩⟩

end Sys2Proof.Proofs
end

section
/-! The command in flight and the host (R77, R231): no access the host makes while BUSY reaches the command, what it
reads or what it reports. -/

namespace Sys2Proof.Machine

/-- The state with everything but the command in flight, its inputs, its outcome fields and the results of earlier
commands forgotten. DONE and ERR are forgotten too: a write of 1 may clear them at any time (R28). -/
def flightOf (s : State) : State :=
  { inputsOf s with
    cmd := s.cmd, scanMin := s.scanMin, scanMax := s.scanMax, errInfo := s.errInfo
    status := { Status.reset with busy := s.status.busy, degen := s.status.degen, errCode := s.status.errCode } }

theorem flightOf_eq_iff {s t : State} : flightOf t = flightOf s ↔
    t.status.busy = s.status.busy ∧ t.cmd = s.cmd ∧ t.imgDim = s.imgDim ∧ t.cmdArg = s.cmdArg ∧
      t.params = s.params ∧ t.epoch = s.epoch ∧ t.mem = s.mem ∧ t.scanMin = s.scanMin ∧ t.scanMax = s.scanMax ∧
      t.errInfo = s.errInfo ∧ t.status.degen = s.status.degen ∧ t.status.errCode = s.status.errCode := by
  simp only [flightOf, inputsOf, State.resetWith, Status.reset, State.mk.injEq, Status.mk.injEq]
  tauto

section
variable {s : State} (hb : s.status.busy = true)
include hb

theorem flightOf_hostRead (off : Nat) : flightOf (hostRead off s).2 = flightOf s := by
  rcases hostRead_cases off s with e | ⟨-, e⟩ <;> rw [e]
  rw [portRead_of_busy hb]
  rfl

theorem flightOf_hostWrite (off : Nat) (v : Word) : flightOf (hostWrite off v s) = flightOf s := by
  have hidle : s.status.busy ≠ false := by simp [hb]
  rcases hostWrite_cases off v s with
    e | ⟨-, e⟩ | ⟨h, -⟩ | ⟨h, -⟩ | ⟨h, -⟩ | ⟨-, e⟩ | e | e | e | e
  · rw [e]
  · rw [e]; rfl
  · exact absurd h hidle
  · exact absurd h hidle
  · exact absurd h hidle
  · rw [e]; rfl
  · rw [e]; rfl
  · rw [e]; rfl
  · rw [e]; rfl
  · rw [e, portWrite_of_busy hb]; rfl

theorem flightOf_hostTurn : flightOf (hostTurn s) = flightOf s := by
  obtain ⟨u, agent, e, hu⟩ := hostTurn_cases s
  have hkept : flightOf u = flightOf s := by
    rcases hu with rfl | ⟨off, rfl⟩ | ⟨off, v, rfl⟩
    · rfl
    · exact flightOf_hostRead hb off
    · exact flightOf_hostWrite hb off v
  rw [e]
  exact hkept

end

end Sys2Proof.Machine

namespace Sys2Proof.Proofs

open Sys2Proof.Machine

/-- Settles O17: a turn of the host is one access at most, and no access while BUSY changes `flightOf`. -/
theorem hostCannotTouchTheCommandInFlight : Obligations.HostCannotTouchTheCommandInFlight := by
  unfold Obligations.HostCannotTouchTheCommandInFlight
  intro s hb
  obtain ⟨hbusy, hrest⟩ := flightOf_eq_iff.1 (flightOf_hostTurn hb)
  exact ⟨hbusy.trans hb, hrest⟩

end Sys2Proof.Proofs
end

section
/-! The frame of a command (R61, R62): of the frame buffers it writes the elements of its layout in its destination, and
no other. -/

namespace Sys2Proof.Machine

open Sys2Proof.Claims

/-! ### What each end of a command leaves of the frame buffers -/

theorem writesOnly_of_mem_eq {s t : State} (hm : t.mem = s.mem) (he : t.epoch = s.epoch) (d n : Nat) :
    writesOnly s t d n :=
  fun b k _ _ => elemWord_congr hm he b k

/-- A state whose frame buffers are those of a commit, whatever registers were written with it. -/
theorem writesOnly_of_writeBuffer {s t : State} {d n : Nat} {out : List Int} (hd : d < Config.nbuf)
    (hm : t.mem = (writeBuffer d out s).mem) (he : t.epoch = s.epoch) (hl : out.length ≤ n) : writesOnly s t d n := by
  intro b k hb hk
  have hout : ¬ (b = d ∧ k < out.length) := fun ⟨hbd, hlt⟩ => (hl.trans (hk hbd)).not_gt hlt
  rw [elemWord_congr hm he, elemWord_writeBuffer hb hd, if_neg hout]

/-- A command that fails the common checks writes nothing. -/
theorem writesOnly_runChecked {s : State} {d n : Nat} {bufs : List Nat} {body : State → State}
    (hbody : d < Config.nbuf → writesOnly s (body s) d n) :
    writesOnly s (runChecked (d :: bufs) body s) d n := by
  rcases runChecked_cases (d :: bufs) body s with ⟨hbufs, -, e⟩ | ⟨-, e⟩ | ⟨-, -, e⟩ <;> rw [e]
  · exact hbody (hbufs d List.mem_cons_self)
  · exact writesOnly_of_mem_eq rfl rfl d n
  · exact writesOnly_of_mem_eq rfl rfl d n

/-! ### The commands -/

theorem writesOnly_convolve (K : Kernel) (d a : Nat) (s : State) : writesOnly s (convolve K d a s) d (pixels s) := by
  refine writesOnly_runChecked fun hd => ?_
  cases firstOverflow (convOutput K s a) with
  | none => exact writesOnly_of_writeBuffer hd rfl rfl (length_convOutput K s a).le
  | some k => exact writesOnly_of_mem_eq rfl rfl d _

/-- Both normalizations end here. -/
theorem writesOnly_commitNormalized {d n : Nat} (hd : d < Config.nbuf) {out : List Int} (hl : out.length ≤ n) (g : Bool)
    (lo hi : BitVec 64) (s : State) : writesOnly s (commitNormalized d out g lo hi s) d n :=
  writesOnly_of_writeBuffer hd rfl rfl hl

/-- A command with a destination writes its layout there at most. -/
theorem exec_writesOnly {i : Instr} {d : Nat} (hi : destination i = some d) (s : State) :
    ∃ t, exec i s = .next t ∧ writesOnly s t d (layoutSize i s) := by
  cases i with
  | nop => cases hi
  | pad _ a =>
    cases hi
    exact ⟨_, rfl, writesOnly_runChecked fun hd => writesOnly_of_writeBuffer hd rfl rfl (length_padOutput s a).le⟩
  | median _ a =>
    cases hi
    exact ⟨_, rfl, writesOnly_runChecked fun hd => writesOnly_of_writeBuffer hd rfl rfl (length_medianOutput s a).le⟩
  | convH _ a => cases hi; exact ⟨_, rfl, writesOnly_convolve .horizontal d a s⟩
  | convV _ a => cases hi; exact ⟨_, rfl, writesOnly_convolve .vertical d a s⟩
  | convD45 _ a => cases hi; exact ⟨_, rfl, writesOnly_convolve .diag45 d a s⟩
  | convD135 _ a => cases hi; exact ⟨_, rfl, writesOnly_convolve .diag135 d a s⟩
  | norm _ a =>
    cases hi
    exact ⟨_, rfl, writesOnly_runChecked fun hd =>
      writesOnly_commitNormalized hd (by simp [layoutSize, pixels]) _ _ _ s⟩
  | magnorm _ a b =>
    cases hi
    exact ⟨_, rfl, writesOnly_runChecked fun hd =>
      writesOnly_commitNormalized hd (by simp [layoutSize, pixels]) _ _ _ s⟩
  | window _ a =>
    cases hi
    refine ⟨_, rfl, writesOnly_runChecked fun hd => ?_⟩
    by_cases hc : validCentre s
    · rw [if_pos hc]
      exact writesOnly_of_writeBuffer hd rfl rfl (length_windowOutput s a).le
    · rw [if_neg hc]
      exact writesOnly_of_mem_eq rfl rfl d _

/-- NOP alone has no destination. -/
theorem eq_nop_of_destination_eq_none {i : Instr} (h : destination i = none) : i = .nop := by
  cases i with
  | nop => rfl
  | _ => cases h

end Sys2Proof.Machine

namespace Sys2Proof.Proofs

open Sys2Proof.Machine Sys2Proof.Claims

/-- Settles O32: a command without a destination is NOP, and any other one commits an output of its layout's length. -/
theorem commandsWriteOnlyTheirDestination : Obligations.CommandsWriteOnlyTheirDestination := by
  unfold Obligations.CommandsWriteOnlyTheirDestination
  intro i s t ht b k hb hk
  cases hi : destination i with
  | none =>
    cases eq_nop_of_destination_eq_none hi
    cases ht
    exact elemWord_congr rfl rfl b k
  | some d =>
    obtain ⟨u, hu, hframe⟩ := exec_writesOnly hi s
    obtain rfl : u = t := by simpa [hu] using ht
    exact hframe b k hb fun hbd => hk (hbd ▸ hi)

end Sys2Proof.Proofs
end

section
/-! The encoding (R90 to R105): what the decoder's verdict says of the fields of a word, and that the fields with RSVD = 0
are the whole word. -/

namespace Sys2Proof.Machine

/-- The fields of a word that a command is read from, in the order of R95: OP, KSEL, DST, SRCA, SRCB. -/
def wordFields (w : Word) : Nat × Nat × Nat × Nat × Nat :=
  (opField w, kselField w, dstField w, srcaField w, srcbField w)

/-! ### The fields of a word -/

theorem dstField_lt (w : Word) : dstField w < 16 := Nat.mod_lt _ (by decide)

theorem srcaField_lt (w : Word) : srcaField w < 16 := Nat.mod_lt _ (by decide)

theorem srcbField_lt (w : Word) : srcbField w < 16 := Nat.mod_lt _ (by decide)

/-- A word with RSVD = 0 is assembled from its other fields: they overlap nowhere and leave no bit out (R90). -/
theorem assemble_wordFields {w : Word} (h : rsvdField w = 0) :
    assemble (opField w) (kselField w) (dstField w) (srcaField w) (srcbField w) = w := by
  apply BitVec.eq_of_toNat_eq
  simp only [assemble, opField, kselField, dstField, srcaField, srcbField, rsvdField, bitField,
    BitVec.toNat_ofNat] at *
  norm_num at *
  omega

/-- NOP's "must be 0" bits [19:4] are the four fields above OP (R95). -/
theorem fields_eq_zero_of_nop_bits {w : Word} (h : bitField w 19 4 = 0) :
    kselField w = 0 ∧ dstField w = 0 ∧ srcaField w = 0 ∧ srcbField w = 0 := by
  simp only [kselField, dstField, srcaField, srcbField, bitField] at *
  norm_num at *
  omega

/-! ### The fields of a word that the decoder accepts -/

theorem fields_of_plainOrIllegal {w : Word} {i j : Instr} (h : plainOrIllegal w j = .instr i) :
    j = i ∧ kselField w = 0 ∧ srcbField w = 0 := by
  unfold plainOrIllegal at h
  split_ifs at h with hzero
  obtain ⟨hksel, hsrcb⟩ := not_or.mp hzero
  exact ⟨Verdict.instr.inj h, not_not.mp hksel, not_not.mp hsrcb⟩

/-- CONV with SRCB = 0 reads its kernel from KSEL (R97). -/
theorem fields_of_decodeConv {w : Word} {i : Instr} (hop : opField w = 3) (h : decodeConv w = .instr i) :
    wordFields w = Laws.EncodedFields.expected i := by
  unfold decodeConv at h
  split_ifs at h with hsrcb
  rw [not_not] at hsrcb
  split at h
  case h_5 => cases h
  all_goals
    next hksel =>
    cases h
    simp only [wordFields, Laws.EncodedFields.expected, hop, hksel, hsrcb]

/-- The decoder answers a command only for a word with RSVD = 0 and the fields R95 gives that command. -/
theorem fields_of_decode {w : Word} {i : Instr} (h : decode w = .instr i) :
    rsvdField w = 0 ∧ wordFields w = Laws.EncodedFields.expected i := by
  have hrsvd : rsvdField w = 0 := by
    by_contra hne
    simp [decode, hne] at h
  rw [decode, if_neg (not_not.mpr hrsvd)] at h
  refine ⟨hrsvd, ?_⟩
  split at h
  case h_1 hop =>
    split_ifs at h with hbits
    cases h
    obtain ⟨hksel, hdst, hsrca, hsrcb⟩ := fields_eq_zero_of_nop_bits (not_not.mp hbits)
    simp only [wordFields, Laws.EncodedFields.expected, hop, hksel, hdst, hsrca, hsrcb]
  case h_4 hop => exact fields_of_decodeConv hop h
  case h_6 hop =>
    split_ifs at h with hksel
    cases h
    simp only [wordFields, Laws.EncodedFields.expected, hop, not_not.mp hksel]
  case h_8 => cases h
  all_goals
    next hop =>
    obtain ⟨rfl, hksel, hsrcb⟩ := fields_of_plainOrIllegal h
    simp only [wordFields, Laws.EncodedFields.expected, hop, hksel, hsrcb]

/-! ### The command of given fields -/

/-- Operands taken from the fields of a word fit them (R93). -/
theorem wf_of_wordFields {w : Word} {i : Instr} (h : wordFields w = Laws.EncodedFields.expected i) : i.wf = true := by
  have hdst := dstField_lt w
  have hsrca := srcaField_lt w
  have hsrcb := srcbField_lt w
  cases i
  case nop => rfl
  all_goals
    simp only [wordFields, Laws.EncodedFields.expected, Prod.mk.injEq] at h
    obtain ⟨-, -, ed, ea, eb⟩ := h
    rw [ed] at hdst
    rw [ea] at hsrca
    rw [eb] at hsrcb
    simp only [Instr.wf, fitsField, hdst, hsrca, hsrcb, decide_true, Bool.and_self]

/-- The encoder assembles the fields R95 gives a command. -/
theorem encode_eq_of_wordFields {w : Word} {i : Instr} (h : wordFields w = Laws.EncodedFields.expected i) :
    encode i = assemble (opField w) (kselField w) (dstField w) (srcaField w) (srcbField w) := by
  cases i
  all_goals
    simp only [wordFields, Laws.EncodedFields.expected, Prod.mk.injEq] at h
    obtain ⟨hop, hksel, hdst, hsrca, hsrcb⟩ := h
    rw [encode, hop, hksel, hdst, hsrca, hsrcb]

end Sys2Proof.Machine

namespace Sys2Proof.Proofs

open Sys2Proof.Machine

/-- Settles O1: the word of a command holds the fields R95 gives it, and the decoder reads the command from those. -/
theorem encodedCommandsDecodeBack : Obligations.EncodedCommandsDecodeBack := by
  unfold Obligations.EncodedCommandsDecodeBack
  exact fun _ => decode_encode

/-- Settles O2: an accepted word has the command's fields and RSVD = 0, and a word is what its fields assemble to. -/
theorem eachCommandHasOneWord : Obligations.EachCommandHasOneWord := by
  unfold Obligations.EachCommandHasOneWord
  intro w i h
  obtain ⟨hrsvd, hfields⟩ := fields_of_decode h
  exact ⟨wf_of_wordFields hfields, (encode_eq_of_wordFields hfields).trans (assemble_wordFields hrsvd)⟩

/-- Settles O5: each listed command's word is its encoding, which decodes back; the other three hold a KSEL that names no
kernel, the reserved OP 7, and MEDIAN with a nonzero SRCB. -/
theorem listedWordsDecodeAsListed : Obligations.ListedWordsDecodeAsListed := by
  unfold Obligations.ListedWordsDecodeAsListed
  exact ⟨decode_encode (i := .nop) rfl, decode_encode (i := .pad 1 0) rfl, decode_encode (i := .median 1 0) rfl,
    decode_encode (i := .convH 2 1) rfl, decode_encode (i := .convV 3 1) rfl, decode_encode (i := .convD45 5 1) rfl,
    decode_encode (i := .convD135 6 1) rfl, decode_encode (i := .norm 2 2) rfl,
    decode_encode (i := .magnorm 4 2 3) rfl, decode_encode (i := .window 7 0) rfl,
    by decide, by decide, by decide, decode_encode (i := .median 9 0) rfl⟩

end Sys2Proof.Proofs
end

section
/-! The padded image and the 3×3 window (R120 to R124): the value at each place of both, and the commands PAD and WINDOW,
which commit them to their destination. -/

namespace Sys2Proof.Machine

open Sys2Proof.Claims

/-! ### The padded image -/

theorem paddedAt_interior {s : State} {i j : Nat} (a : Nat) (hi : i < s.imgH) (hj : j < s.imgW) :
    paddedAt s a (i + 1) (j + 1) = elem s a (i * s.imgW + j) := by
  rw [paddedAt, if_pos (by omega), Nat.add_sub_cancel, Nat.add_sub_cancel]

theorem paddedAt_border {s : State} {i j : Nat} (a : Nat)
    (h : i = 0 ∨ i = s.imgH + 1 ∨ j = 0 ∨ j = s.imgW + 1) : paddedAt s a i j = 0 := by
  rw [paddedAt, if_neg (by omega)]

theorem pixel_natCast {s : State} {y x : Nat} (a : Nat) (hy : y < s.imgH) (hx : x < s.imgW) :
    pixel s a y x = elem s a (y * s.imgW + x) := by
  rw [pixel, if_pos (by omega)]
  rfl

/-- Place (i, j) of the padded image is place (i − 1, j − 1) of the source, which has 0 around it (R120). -/
theorem paddedAt_eq_pixel (s : State) (a i j : Nat) : paddedAt s a i j = pixel s a ((i : Int) - 1) ((j : Int) - 1) := by
  by_cases hin : 1 ≤ i ∧ i ≤ s.imgH ∧ 1 ≤ j ∧ j ≤ s.imgW
  · obtain ⟨hi, hiH, hj, hjW⟩ := hin
    obtain ⟨y, rfl⟩ := Nat.exists_eq_add_of_le' hi
    obtain ⟨x, rfl⟩ := Nat.exists_eq_add_of_le' hj
    have hy : y < s.imgH := by omega
    have hx : x < s.imgW := by omega
    rw [paddedAt_interior a hy hx, ← pixel_natCast a hy hx]
    simp
  · rw [paddedAt, if_neg hin, pixel, if_neg (by omega)]

/-- The padded image holds source elements and zeros, so it can be stored. -/
theorem paddedAt_isS32 (s : State) (a i j : Nat) : isS32 (paddedAt s a i j) := by
  rw [paddedAt]
  split
  · exact elem_isS32 s a _
  · exact ⟨by decide, by decide⟩

/-- Place (i, j) of the window lies (i − 1, j − 1) from its centre, which is 1-indexed into the padded image (R122). -/
theorem windowAt_eq_pixel {cr cc : Nat} (hr : 1 ≤ cr) (hc : 1 ≤ cc) (s : State) (a i j : Nat) :
    windowAt s a cr cc i j = pixel s a ((cr : Int) - 1 + ((i : Int) - 1)) ((cc : Int) - 1 + ((j : Int) - 1)) := by
  have hrow : ((cr - 1 + i : Nat) : Int) - 1 = (cr : Int) - 1 + ((i : Int) - 1) := by omega
  have hcol : ((cc - 1 + j : Nat) : Int) - 1 = (cc : Int) - 1 + ((j : Int) - 1) := by omega
  rw [windowAt, paddedAt_eq_pixel, hrow, hcol]

/-! ### The commit of an output -/

theorem endedWell_commit (d : Nat) (out : List Int) (s : State) :
    endedWell s (commandDone (writeBuffer d out s)) := rfl

/-- After the commit of an array, place (i, j) of the destination reads back its value there. -/
theorem elem_commit_rowMajor {d rows cols i j : Nat} {f : Nat → Nat → Int} (hd : d < Config.nbuf) (hi : i < rows)
    (hj : j < cols) (hf : isS32 (f i j)) (s : State) :
    elem (commandDone (writeBuffer d (rowMajor rows cols f) s)) d (i * cols + j) = f i j := by
  have hval := getD_rowMajor_index hi hj f
  have hlt : i * cols + j < (rowMajor rows cols f).length := by simpa using index_lt hi hj
  calc elem (commandDone (writeBuffer d (rowMajor rows cols f) s)) d (i * cols + j)
    _ = elem (writeBuffer d (rowMajor rows cols f) s) d (i * cols + j) := rfl
    _ = (rowMajor rows cols f).getD (i * cols + j) 0 := elem_writeBuffer hd _ s hlt (by rw [hval]; exact hf)
    _ = f i j := hval

section
variable {s : State} {d a : Nat}

theorem exec_pad_of_valid (hd : d < Config.nbuf) (ha : a < Config.nbuf) (hv : validDims s) :
    exec (.pad d a) s = .next (commandDone (writeBuffer d (padOutput s a) s)) :=
  congrArg Host.Outcome.next (runChecked_ok (by simp [hd, ha]) hv _)

theorem exec_window_of_valid (hd : d < Config.nbuf) (ha : a < Config.nbuf) (hv : validDims s) (hc : validCentre s) :
    exec (.window d a) s = .next (commandDone (writeBuffer d (windowOutput s a) s)) :=
  congrArg Host.Outcome.next ((runChecked_ok (by simp [hd, ha]) hv _).trans (if_pos hc))

end

end Sys2Proof.Machine

namespace Sys2Proof.Proofs

open Sys2Proof.Machine Sys2Proof.Claims

/-- Settles O39: PAD commits the padded image of the state before, which holds the source in its interior and 0 on its
border. -/
theorem padWritesThePaddedImage : Obligations.PadWritesThePaddedImage := by
  unfold Obligations.PadWritesThePaddedImage
  intro s d a hd ha hv
  have hcell (i j) (hi : i < s.imgH + 2) (hj : j < s.imgW + 2) :
      elem (commandDone (writeBuffer d (padOutput s a) s)) d (i * (s.imgW + 2) + j) = paddedAt s a i j :=
    elem_commit_rowMajor hd hi hj (paddedAt_isS32 s a i j) s
  refine ⟨_, exec_pad_of_valid hd ha hv, endedWell_commit d _ s,
    writesOnly_of_writeBuffer hd rfl rfl (length_padOutput s a).le, fun i j hi hj => ?interior,
    fun i j hi hj hborder => ?border⟩
  case interior => rw [hcell _ _ (by omega) (by omega), paddedAt_interior a hi hj]
  case border => rw [hcell _ _ (by omega) (by omega), paddedAt_border a hborder]

/-- Settles O40: WINDOW commits the window at its centre, whose places are pixels of the source around the centre. -/
theorem windowWritesTheNeighbourhood : Obligations.WindowWritesTheNeighbourhood := by
  unfold Obligations.WindowWritesTheNeighbourhood
  intro s d a hd ha hv hr hrH hc hcW
  refine ⟨_, exec_window_of_valid hd ha hv ⟨hr, hrH, hc, hcW⟩, endedWell_commit d _ s,
    writesOnly_of_writeBuffer hd rfl rfl (length_windowOutput s a).le, fun i j hi hj => ?_⟩
  have hstorable : isS32 (windowAt s a s.crow s.ccol i j) := paddedAt_isS32 s a _ _
  rw [Nat.mul_comm 3 i, windowOutput, elem_commit_rowMajor hd hi hj hstorable, windowAt_eq_pixel hr hc]

end Sys2Proof.Proofs
end

section
/-! The line-buffer scan (R125): what its registers hold before each cell, kept by every cell of a row and from row to
row, and so the windows it has emitted. -/

namespace Sys2Proof.Machine

/-! ### What the scan holds -/

/-- Rows i, i + 1 and i + 2 of column j. -/
def columnAt (P : Nat → Nat → Int) (i j : Nat) : Column := (P i j, P (i + 1) j, P (i + 2) j)

/-- The window of output pixel number `k` of rows of `W` pixels (R122, R124). -/
def scanWindow (P : Nat → Nat → Int) (W k : Nat) : List Int :=
  (List.range 9).map fun m => P (k / W + m / 3) (k % W + m % 3)

/-- How many cells of column `j` the scan has read when it comes to cell (r, c). -/
def rowsRead (r c j : Nat) : Nat := if j < c then r + 1 else r

/-- How many windows the scan has emitted when it comes to cell (r, c). -/
def windowsBefore (W r c : Nat) : Nat := (r - 2) * W + if 2 ≤ r then c - 2 else 0

/-- What the scan's registers hold when it comes to cell (r, c): LB0 the cell last read of each column and LB1 the one
above it; from row 2 on, the window columns the two that end before `c`; and the windows emitted so far. -/
structure ScanInv (P : Nat → Nat → Int) (W r c : Nat) (ls : LineScan) : Prop where
  length0 : ls.lb0.length = W + 2
  length1 : ls.lb1.length = W + 2
  above : ∀ i j, j < W + 2 → rowsRead r c j = i + 1 → ls.lb0.getD j 0 = P i j
  above2 : ∀ i j, j < W + 2 → rowsRead r c j = i + 2 → ls.lb1.getD j 0 = P i j
  newer : ∀ i j, r = i + 2 → c = j + 1 → ls.newer = columnAt P i j
  older : ∀ i j, r = i + 2 → c = j + 2 → ls.older = columnAt P i j
  emitted : ls.emitted = (List.range (windowsBefore W r c)).map (scanWindow P W)

/-! ### The counts -/

theorem rowsRead_next (r c j : Nat) : rowsRead r (c + 1) j = if j = c then r + 1 else rowsRead r c j := by
  unfold rowsRead
  split_ifs <;> omega

@[simp] theorem rowsRead_self (r c : Nat) : rowsRead r c c = r := if_neg (lt_irrefl c)

theorem rowsRead_endOfRow {r W j : Nat} (hj : j < W + 2) : rowsRead r (W + 2) j = rowsRead (r + 1) 0 j := by
  rw [rowsRead, if_pos hj, rowsRead, if_neg (Nat.not_lt_zero j)]

theorem windowsBefore_interior (W i j : Nat) :
    windowsBefore W (i + 2) (j + 2) = i * W + j ∧ windowsBefore W (i + 2) (j + 2 + 1) = i * W + j + 1 := by
  simp [windowsBefore, Nat.add_assoc]

theorem windowsBefore_next_border {r c : Nat} (W : Nat) (h : ¬ (2 ≤ r ∧ 2 ≤ c)) :
    windowsBefore W r (c + 1) = windowsBefore W r c := by
  unfold windowsBefore
  split_ifs <;> omega

theorem windowsBefore_endOfRow (W r : Nat) : windowsBefore W r (W + 2) = windowsBefore W (r + 1) 0 := by
  rcases r with _ | _ | i
  · simp [windowsBefore]
  · simp [windowsBefore]
  · simp [windowsBefore, Nat.add_mul]

/-! ### One window -/

/-- Three neighbouring columns make the window of the pixel (i, j) they start at. -/
theorem columnsToWindow_columnAt {W j : Nat} (hj : j < W) (P : Nat → Nat → Int) (i : Nat) :
    columnsToWindow (columnAt P i j) (columnAt P i (j + 1)) (columnAt P i (j + 2)) = scanWindow P W (i * W + j) := by
  rw [scanWindow, (index_div_mod hj).1, (index_div_mod hj).2]
  rfl

/-! ### What a cell does to each register -/

theorem getD_set (l : List Int) {c : Nat} (hc : c < l.length) (v : Int) (j : Nat) :
    (l.set c v).getD j 0 = if j = c then v else l.getD j 0 := by
  rw [List.getD_eq_getElem?_getD, List.getD_eq_getElem?_getD, List.getElem?_set, if_pos hc]
  split_ifs with h1 h2 h2
  · rfl
  · exact absurd h1.symm h2
  · exact absurd h2.symm h1
  · rfl

section
variable (P : Nat → Nat → Int) (r : Nat) {c : Nat} {ls : LineScan}

theorem lineScanCell_lb0 (hc : c < ls.lb0.length) (j : Nat) :
    (lineScanCell P r c ls).lb0.getD j 0 = if j = c then P r c else ls.lb0.getD j 0 := getD_set _ hc _ j

theorem lineScanCell_lb1 (hc : c < ls.lb1.length) (j : Nat) :
    (lineScanCell P r c ls).lb1.getD j 0 = if j = c then ls.lb0.getD c 0 else ls.lb1.getD j 0 := getD_set _ hc _ j

variable {r}

theorem lineScanCell_emitted_interior (h : 2 ≤ r ∧ 2 ≤ c) (ls : LineScan) :
    (lineScanCell P r c ls).emitted =
      ls.emitted ++ [columnsToWindow ls.older ls.newer (lineScanCell P r c ls).newer] := if_pos h

theorem lineScanCell_emitted_border (h : ¬ (2 ≤ r ∧ 2 ≤ c)) (ls : LineScan) :
    (lineScanCell P r c ls).emitted = ls.emitted := if_neg h

end

/-! ### One cell, one row, the whole scan -/

section
variable {P : Nat → Nat → Int} {W r c : Nat} {ls : LineScan}

/-- From row 2 on, the column a cell completes is the three rows that end at it. -/
theorem ScanInv.newColumn {i : Nat} (h : ScanInv P W (i + 2) c ls) (hc : c < W + 2) :
    (lineScanCell P (i + 2) c ls).newer = columnAt P i c := by
  have htop := h.above2 i c hc (rowsRead_self _ _)
  have hmiddle := h.above (i + 1) c hc (rowsRead_self _ _)
  rw [lineScanCell, htop, hmiddle, columnAt]

theorem ScanInv.emitted_cell (h : ScanInv P W r c ls) (hc : c < W + 2) :
    (lineScanCell P r c ls).emitted = (List.range (windowsBefore W r (c + 1))).map (scanWindow P W) := by
  by_cases hin : 2 ≤ r ∧ 2 ≤ c
  · rw [lineScanCell_emitted_interior P hin]
    obtain ⟨i, rfl⟩ := Nat.exists_eq_add_of_le' hin.1
    obtain ⟨j, rfl⟩ := Nat.exists_eq_add_of_le' hin.2
    obtain ⟨hbefore, hafter⟩ := windowsBefore_interior W i j
    have hj : j < W := by omega
    rw [h.older i j rfl rfl, h.newer i (j + 1) rfl rfl, h.newColumn hc, columnsToWindow_columnAt hj, h.emitted,
      hbefore, hafter, List.range_succ, List.map_append, List.map_singleton]
  · rw [lineScanCell_emitted_border P hin, windowsBefore_next_border W hin, h.emitted]

/-- A cell of the scan takes what the registers hold from its place to the next. -/
theorem ScanInv.cell (h : ScanInv P W r c ls) (hc : c < W + 2) : ScanInv P W r (c + 1) (lineScanCell P r c ls) where
  length0 := (List.length_set ..).trans h.length0
  length1 := (List.length_set ..).trans h.length1
  above i j hj hread := by
    rw [rowsRead_next] at hread
    rw [lineScanCell_lb0 P r (h.length0 ▸ hc)]
    split_ifs at hread ⊢ with hjc
    · rw [hjc, Nat.succ.inj hread]
    · exact h.above i j hj hread
  above2 i j hj hread := by
    rw [rowsRead_next] at hread
    rw [lineScanCell_lb1 P r (h.length1 ▸ hc)]
    split_ifs at hread ⊢ with hjc
    · rw [hjc]
      exact h.above i c hc ((rowsRead_self r c).trans (Nat.succ.inj hread))
    · exact h.above2 i j hj hread
  newer i j hr hcj := by
    subst hr
    obtain rfl := Nat.succ.inj hcj
    exact h.newColumn hc
  older i j hr hcj := h.newer i j hr (Nat.succ.inj hcj)
  emitted := h.emitted_cell hc

/-- The end of a row is the beginning of the next. -/
theorem ScanInv.endOfRow (h : ScanInv P W r (W + 2) ls) : ScanInv P W (r + 1) 0 ls where
  length0 := h.length0
  length1 := h.length1
  above i j hj hread := h.above i j hj ((rowsRead_endOfRow hj).trans hread)
  above2 i j hj hread := h.above2 i j hj ((rowsRead_endOfRow hj).trans hread)
  newer _ _ _ hc := absurd hc (Nat.zero_ne_add_one _)
  older _ _ _ hc := absurd hc (Nat.zero_ne_add_one _)
  emitted := by rw [← windowsBefore_endOfRow]; exact h.emitted

/-- Before its first cell the scan holds nothing that matters, whatever its buffers and columns hold. -/
theorem ScanInv.start (h0 : ls.lb0.length = W + 2) (h1 : ls.lb1.length = W + 2) (he : ls.emitted = []) :
    ScanInv P W 0 0 ls where
  length0 := h0
  length1 := h1
  above _ _ _ hread := absurd hread (Nat.zero_ne_add_one _)
  above2 _ _ _ hread := absurd hread (Nat.zero_ne_add_one _)
  newer _ _ hr _ := absurd hr (Nat.zero_ne_add_one _)
  older _ _ hr _ := absurd hr (Nat.zero_ne_add_one _)
  emitted := by simpa [windowsBefore] using he

theorem ScanInv.row (h : ScanInv P W r 0 ls) (hc : c ≤ W + 2) :
    ScanInv P W r c ((List.range c).foldl (fun ls c => lineScanCell P r c ls) ls) := by
  induction c with
  | zero => exact h
  | succ c ih =>
    rw [List.range_succ, List.foldl_append]
    exact (ih (by omega)).cell hc

/-- One more row of the array is one more row of cells. -/
theorem lineScan_succ (P : Nat → Nat → Int) (rows cols : Nat) (ls : LineScan) :
    lineScan P (rows + 1) cols ls =
      (List.range cols).foldl (fun ls c => lineScanCell P rows c ls) (lineScan P rows cols ls) := by
  rw [lineScan, Nat.add_mul, Nat.one_mul, List.range_add, List.foldl_append, List.foldl_map, ← lineScan]
  refine List.foldl_ext _ _ _ fun ls c hc => ?_
  obtain ⟨hdiv, hmod⟩ := index_div_mod (i := rows) (List.mem_range.1 hc)
  rw [hdiv, hmod]

theorem ScanInv.afterRows (h : ScanInv P W 0 0 ls) (rows : Nat) : ScanInv P W rows 0 (lineScan P rows (W + 2) ls) := by
  induction rows with
  | zero => simpa [lineScan] using h
  | succ rows ih =>
    rw [lineScan_succ]
    exact (ih.row le_rfl).endOfRow

end

end Sys2Proof.Machine

namespace Sys2Proof.Proofs

open Sys2Proof.Machine

/-- Settles O44: after H + 2 rows the scan has emitted the H·W windows that its invariant counts. -/
theorem lineScanEmitsTheWindows : Obligations.LineScanEmitsTheWindows := by
  unfold Obligations.LineScanEmitsTheWindows
  intro P H W ls _ _ h0 h1 he
  exact ((ScanInv.start h0 h1 he).afterRows (H + 2)).emitted

end Sys2Proof.Proofs
end

section
/-! The rank filter (R140 to R144): the k-th smallest by how many members a bound admits, MEDIAN as the fifth smallest of
each window, the padding zeros that decide a border output, and the selector network. -/

namespace Sys2Proof.Machine

open Sys2Proof.Claims

/-! ### The k-th smallest (R13, R142) -/

/-- In a sorted list the elements up to a bound come first. -/
theorem getD_le_iff_of_sorted {l : List Int} (hl : l.Pairwise (· ≤ ·)) {k : Nat} (hk : k < l.length) (v : Int) :
    l.getD k 0 ≤ v ↔ k < l.countP (fun x => decide (x ≤ v)) := by
  induction l generalizing k with
  | nil => exact absurd hk (Nat.not_lt_zero k)
  | cons x xs ih =>
    obtain ⟨hx, hxs⟩ := List.pairwise_cons.1 hl
    by_cases hxv : x ≤ v
    · cases k with
      | zero => simp [hxv]
      | succ k => simpa [hxv] using ih hxs (Nat.lt_of_succ_lt_succ hk)
    · have hnone : (x :: xs).countP (fun y => decide (y ≤ v)) = 0 := by
        simp only [List.countP_eq_zero, decide_eq_true_eq, List.forall_mem_cons]
        exact ⟨hxv, fun y hy hyv => hxv ((hx y hy).trans hyv)⟩
      have hle : x ≤ (x :: xs).getD k 0 := by
        cases k with
        | zero => exact le_rfl
        | succ k =>
          rw [List.getD_eq_getElem _ _ hk]
          exact hx _ (List.getElem_mem _)
      rw [hnone]
      exact iff_of_false (fun h => hxv (hle.trans h)) (Nat.not_lt_zero k)

section
variable {V : List Int} {k : Nat}

theorem kthSmallest_mem (hk : k < V.length) : kthSmallest V k ∈ V := by
  have hk' : k < (V.insertionSort (· ≤ ·)).length := by simpa using hk
  rw [kthSmallest, List.getD_eq_getElem _ _ hk', ← List.mem_insertionSort (· ≤ ·)]
  exact List.getElem_mem hk'

/-- The k-th smallest (from 0) is at most `v` exactly when more than k members are: a property of the multiset alone
(R142). -/
theorem kthSmallest_le_iff (hk : k < V.length) (v : Int) :
    kthSmallest V k ≤ v ↔ k < V.countP (fun x => decide (x ≤ v)) := by
  rw [kthSmallest, getD_le_iff_of_sorted (List.pairwise_insertionSort _ V) (by simpa using hk),
    (List.perm_insertionSort _ V).countP_eq]

theorem lt_countP_le_kthSmallest (hk : k < V.length) : k < V.countP (fun x => decide (x ≤ kthSmallest V k)) :=
  (kthSmallest_le_iff hk _).1 le_rfl

theorem kthSmallest_lt_iff (hk : k < V.length) (v : Int) :
    kthSmallest V k < v ↔ k < V.countP (fun x => decide (x < v)) := by
  simpa only [Int.le_sub_one_iff] using kthSmallest_le_iff hk (v - 1)

theorem countP_lt_kthSmallest_le (hk : k < V.length) : V.countP (fun x => decide (x < kthSmallest V k)) ≤ k :=
  not_lt.1 fun h => lt_irrefl _ ((kthSmallest_lt_iff hk _).2 h)

/-- A value that occurs often enough stands at index k, however many members lie on either side of it. -/
theorem kthSmallest_eq_of_count {v : Int} (hk : k < V.count v) (hl : V.length ≤ V.count v + k) :
    kthSmallest V k = v := by
  have hkl : k < V.length := hk.trans_le List.count_le_length
  have hle : V.count v ≤ V.countP (fun x => decide (x ≤ v)) :=
    List.countP_mono_left fun x _ hx => decide_eq_true (beq_iff_eq.1 hx).le
  have hge : V.count v ≤ V.countP (fun x => !decide (x < v)) :=
    List.countP_mono_left fun x _ hx => by simp [beq_iff_eq.1 hx]
  have hall := List.length_eq_countP_add_countP (fun x => decide (x < v)) (l := V)
  refine le_antisymm ((kthSmallest_le_iff hkl v).2 (hk.trans_le hle)) (not_lt.1 fun hlt => ?_)
  have hbelow := (kthSmallest_lt_iff hkl v).1 hlt
  simp only [Bool.not_eq_true, Bool.decide_eq_false] at hall
  omega

end

/-! ### The window of a pixel (R124, R140) -/

theorem mem_rowMajor {rows cols : Nat} {f : Nat → Nat → Int} {v : Int} (h : v ∈ rowMajor rows cols f) :
    ∃ i j, f i j = v := by
  obtain ⟨k, -, hk⟩ := List.mem_map.1 h
  exact ⟨_, _, hk⟩

/-- The weights are 1 and the centre of pixel (y, x) is (y + 1, x + 1), so its window starts at place (y, x) of the padded
image (R122, R124). -/
theorem weightedWindow_eq_padded (s : State) (a y x : Nat) :
    weightedWindow s a y x = rowMajor 3 3 fun i j => paddedAt s a (y + i) (x + j) := by
  simp only [weightedWindow, rankWeight, Int.mul_one, pixelWindow, windowAt, Nat.add_sub_cancel]

@[simp] theorem length_weightedWindow (s : State) (a y x : Nat) : (weightedWindow s a y x).length = 9 := by
  simp [weightedWindow]

theorem weightedWindow_eq_neighbourhood (s : State) (a y x : Nat) :
    weightedWindow s a y x = neighbourhood s a y x := by
  have hplace (i j : Nat) : paddedAt s a (y + i) (x + j) = pixel s a (y + ((i : Int) - 1)) (x + ((j : Int) - 1)) := by
    rw [paddedAt_eq_pixel]
    congr 1 <;> push_cast <;> ring
  rw [weightedWindow_eq_padded]
  simp only [hplace]
  rfl

theorem kthSmallest_weightedWindow_isS32 (s : State) (a y x : Nat) :
    isS32 (kthSmallest (weightedWindow s a y x) 4) := by
  have hmem := kthSmallest_mem (V := weightedWindow s a y x) (k := 4) (by simp)
  rw [weightedWindow_eq_padded] at hmem
  obtain ⟨i, j, h⟩ := mem_rowMajor hmem
  rw [weightedWindow_eq_padded, ← h]
  exact paddedAt_isS32 s a _ _

/-! ### MEDIAN -/

theorem exec_median_of_valid {s : State} {d a : Nat} (hd : d < Config.nbuf) (ha : a < Config.nbuf) (hv : validDims s) :
    exec (.median d a) s = .next (commandDone (writeBuffer d (medianOutput s a) s)) :=
  congrArg Host.Outcome.next (runChecked_ok (by simp [hd, ha]) hv _)

theorem elem_commit_medianOutput {s : State} {d y x : Nat} (hd : d < Config.nbuf) (hy : y < s.imgH) (hx : x < s.imgW)
    (a : Nat) : elem (commandDone (writeBuffer d (medianOutput s a) s)) d (y * s.imgW + x) =
      kthSmallest (weightedWindow s a y x) 4 :=
  elem_commit_rowMajor (f := fun r c => kthSmallest (weightedWindow s a r c) 4) hd hy hx
    (kthSmallest_weightedWindow_isS32 s a y x) s

/-! ### The padding zeros of a window (R144) -/

/-- An array holds at least as many zeros as it has places known to hold one. -/
theorem countP_places_le_count_zero {rows cols : Nat} {f : Nat → Nat → Int} {zeroAt : Nat → Nat → Bool}
    (h : ∀ i j, zeroAt i j → f i j = 0) :
    (List.range (rows * cols)).countP (fun k => zeroAt (k / cols) (k % cols)) ≤ (rowMajor rows cols f).count 0 := by
  rw [rowMajor, List.count, List.countP_map]
  exact List.countP_mono_left fun k _ hk => beq_iff_eq.2 (h _ _ hk)

section
variable {s : State} {y x : Nat}

/-- Five places of the window that lie on the border of the padded image make the median 0, whatever the other members
(R144 (a)). -/
theorem median_eq_zero_of_border {border : Nat → Nat → Bool}
    (hfive : 5 ≤ (List.range (3 * 3)).countP fun k => border (k / 3) (k % 3))
    (hborder : ∀ i j, border i j → y + i = 0 ∨ y + i = s.imgH + 1 ∨ x + j = 0 ∨ x + j = s.imgW + 1) (a : Nat) :
    kthSmallest (weightedWindow s a y x) 4 = 0 := by
  have hzeros : 5 ≤ (weightedWindow s a y x).count 0 := by
    rw [weightedWindow_eq_padded]
    exact hfive.trans (countP_places_le_count_zero fun i j hij => paddedAt_border a (hborder i j hij))
  exact kthSmallest_eq_of_count hzeros (by rw [length_weightedWindow]; omega)

/-- A first or a last pixel of a line of n has the border beside it in its window. -/
theorem exists_border_of_end {z n : Nat} (h : z = 0 ∨ z + 1 = n) : ∃ i < 3, z + i = 0 ∨ z + i = n + 1 := by
  rcases h with h | h
  · exact ⟨0, by decide, .inl h⟩
  · exact ⟨2, by decide, .inr (by omega)⟩

/-- The window of a corner pixel holds a whole row and a whole column of the border. -/
theorem median_eq_zero_of_corner (hy : y = 0 ∨ y + 1 = s.imgH) (hx : x = 0 ∨ x + 1 = s.imgW) (a : Nat) :
    kthSmallest (weightedWindow s a y x) 4 = 0 := by
  obtain ⟨i, hi, hrow⟩ := exists_border_of_end hy
  obtain ⟨j, hj, hcol⟩ := exists_border_of_end hx
  have hfive : ∀ i < 3, ∀ j < 3, 5 ≤ (List.range (3 * 3)).countP fun k => decide (k / 3 = i ∨ k % 3 = j) := by decide
  refine median_eq_zero_of_border (border := fun r c => decide (r = i ∨ c = j)) (hfive i hi j hj) (fun r c h => ?_) a
  rcases of_decide_eq_true h with rfl | rfl <;> omega

/-- The window of a pixel of a one-row image holds the border above and the border below. -/
theorem median_eq_zero_of_singleRow (hH : s.imgH = 1) (hy : y < s.imgH) (a : Nat) :
    kthSmallest (weightedWindow s a y x) 4 = 0 := by
  refine median_eq_zero_of_border (border := fun i _ => decide (i = 0 ∨ i = 2)) (by decide) (fun i j h => ?_) a
  have := of_decide_eq_true h
  omega

/-- The window of a pixel of a one-column image holds the border to the left and the border to the right. -/
theorem median_eq_zero_of_singleColumn (hW : s.imgW = 1) (hx : x < s.imgW) (a : Nat) :
    kthSmallest (weightedWindow s a y x) 4 = 0 := by
  refine median_eq_zero_of_border (border := fun _ j => decide (j = 0 ∨ j = 2)) (by decide) (fun i j h => ?_) a
  have := of_decide_eq_true h
  omega

end

/-! ### The selector network (R143)

Its first nine comparators sort each row of three. The rest take the median of three values: the greatest of the rows' low
ends, the median of their middles and the least of their high ends. -/

/-- The least of three, as three comparators leave it in the first place. -/
def lowOfThree (a b c : Int) : Int := min a (min b c)

/-- The median of three, as three comparators leave it in the second place. -/
def midOfThree (a b c : Int) : Int := min (max a (min b c)) (max b c)

/-- The greatest of three, as three comparators leave it in the third place. -/
def highOfThree (a b c : Int) : Int := max (max a (min b c)) (max b c)

theorem medianNetwork_eq_midOfThree (p0 p1 p2 p3 p4 p5 p6 p7 p8 : Int) :
    medianNetwork [p0, p1, p2, p3, p4, p5, p6, p7, p8] =
      midOfThree
        (max (max (lowOfThree p0 p1 p2) (lowOfThree p3 p4 p5)) (lowOfThree p6 p7 p8))
        (midOfThree (midOfThree p0 p1 p2) (midOfThree p3 p4 p5) (midOfThree p6 p7 p8))
        (min (highOfThree p0 p1 p2) (min (highOfThree p3 p4 p5) (highOfThree p6 p7 p8))) := by
  simp only [medianNetwork, medianComparators, compareExchange, List.foldl_cons, List.foldl_nil, List.set_cons_zero,
    List.set_cons_succ, List.getD_cons_zero, List.getD_cons_succ, lowOfThree, midOfThree, highOfThree]

/-- How many of three values are at most `v`. -/
def atMostOfThree (v a b c : Int) : Nat := [a, b, c].countP fun x => decide (x ≤ v)

theorem atMostOfThree_le (v a b c : Int) : atMostOfThree v a b c ≤ 3 := List.countP_le_length

section
variable (v a b c : Int)

theorem atMostOfThree_eq : atMostOfThree v a b c =
    (if a ≤ v then 1 else 0) + (if b ≤ v then 1 else 0) + (if c ≤ v then 1 else 0) := by
  simp only [atMostOfThree, List.countP_cons, List.countP_nil, decide_eq_true_eq]
  ring

theorem lowOfThree_le_iff : lowOfThree a b c ≤ v ↔ 1 ≤ atMostOfThree v a b c := by
  rw [lowOfThree, atMostOfThree_eq]
  split_ifs <;> omega

theorem midOfThree_le_iff_pair :
    midOfThree a b c ≤ v ↔ (a ≤ v ∧ b ≤ v) ∨ (a ≤ v ∧ c ≤ v) ∨ (b ≤ v ∧ c ≤ v) := by
  rw [midOfThree]
  omega

theorem midOfThree_le_iff : midOfThree a b c ≤ v ↔ 2 ≤ atMostOfThree v a b c := by
  rw [midOfThree, atMostOfThree_eq]
  split_ifs <;> omega

theorem highOfThree_le_iff : highOfThree a b c ≤ v ↔ 3 ≤ atMostOfThree v a b c := by
  rw [highOfThree, atMostOfThree_eq]
  split_ifs <;> omega

end

/-- The network's output is at most `v` exactly when five of its inputs are: of the greatest low end, the middle of the
middles and the least high end, two are at most `v` exactly then. -/
theorem medianNetwork_le_iff (v p0 p1 p2 p3 p4 p5 p6 p7 p8 : Int) :
    medianNetwork [p0, p1, p2, p3, p4, p5, p6, p7, p8] ≤ v ↔
      4 < [p0, p1, p2, p3, p4, p5, p6, p7, p8].countP (fun x => decide (x ≤ v)) := by
  have hrows : [p0, p1, p2, p3, p4, p5, p6, p7, p8].countP (fun x => decide (x ≤ v)) =
      atMostOfThree v p0 p1 p2 + atMostOfThree v p3 p4 p5 + atMostOfThree v p6 p7 p8 := by
    rw [atMostOfThree, atMostOfThree, atMostOfThree, ← List.countP_append, ← List.countP_append]
    rfl
  have h0 := atMostOfThree_le v p0 p1 p2
  have h1 := atMostOfThree_le v p3 p4 p5
  have h2 := atMostOfThree_le v p6 p7 p8
  rw [hrows, medianNetwork_eq_midOfThree, midOfThree_le_iff_pair, midOfThree_le_iff_pair v (midOfThree p0 p1 p2)]
  simp only [max_le_iff, min_le_iff, lowOfThree_le_iff, midOfThree_le_iff, highOfThree_le_iff]
  omega

end Sys2Proof.Machine

namespace Sys2Proof.Proofs

open Sys2Proof.Machine Sys2Proof.Claims

/-- Settles O41: MEDIAN commits the fifth smallest of each neighbourhood, which its rank determines. -/
theorem medianWritesTheFifthSmallest : Obligations.MedianWritesTheFifthSmallest := by
  unfold Obligations.MedianWritesTheFifthSmallest
  intro s d a hd ha hv
  refine ⟨_, exec_median_of_valid hd ha hv, endedWell_commit d _ s,
    writesOnly_of_writeBuffer hd rfl rfl (length_medianOutput s a).le, fun y x hy hx => ?_⟩
  have hk : 4 < (neighbourhood s a y x).length := by simp [neighbourhood]
  rw [elem_commit_medianOutput hd hy hx, weightedWindow_eq_neighbourhood]
  exact ⟨kthSmallest_mem hk, countP_lt_kthSmallest_le hk, lt_countP_le_kthSmallest hk⟩

/-- Settles O42: in each case at least five members of the window are padding zeros. -/
theorem medianIsZeroWhereFiveZerosPad : Obligations.MedianIsZeroWhereFiveZerosPad := by
  unfold Obligations.MedianIsZeroWhereFiveZerosPad
  intro s d a t y x hd ha hv ht hy hx hcase
  obtain rfl := Host.Outcome.next.inj ((exec_median_of_valid hd ha hv).symm.trans ht)
  rw [elem_commit_medianOutput hd hy hx]
  rcases hcase with ⟨hrow, hcol⟩ | hH | hW
  · exact median_eq_zero_of_corner hrow hcol a
  · exact median_eq_zero_of_singleRow hH hy a
  · exact median_eq_zero_of_singleColumn hW hx a

/-- Settles O43: the network's output and the fifth smallest have the same upper bounds, those that bound five of the
inputs. -/
theorem medianNetworkSelectsTheFifth : Obligations.MedianNetworkSelectsTheFifth := by
  unfold Obligations.MedianNetworkSelectsTheFifth
  intro p0 p1 p2 p3 p4 p5 p6 p7 p8
  refine eq_of_forall_ge_iff fun v => ?_
  rw [medianNetwork_le_iff, kthSmallest_le_iff (by simp)]

end Sys2Proof.Proofs
end

section
/-! The correlator (R160 to R171): each exact sum as the gradient that the spec expands it to, CONV as a commit of the
gradients or an OVERFLOW, the range of the gradients, and the mirror that takes one diagonal to the other. -/

namespace Sys2Proof.Machine

open Sys2Proof.Claims

/-! ### The exact sums (R161 to R166) -/

/-- Place (i, j) of the window of pixel (y, x) lies (i − 1, j − 1) from it (R124). -/
theorem pixelWindow_eq_pixel (s : State) (a y x i j : Nat) :
    pixelWindow s a y x i j = pixel s a (y + ((i : Int) - 1)) (x + ((j : Int) - 1)) := by
  rw [pixelWindow, windowAt_eq_pixel (Nat.le_add_left 1 y) (Nat.le_add_left 1 x)]
  simp

theorem rowMajor_three (f : Nat → Nat → Int) :
    rowMajor 3 3 f = [f 0 0, f 0 1, f 0 2, f 1 0, f 1 1, f 1 2, f 2 0, f 2 1, f 2 2] := rfl

/-- The nine products of a window with a flipped kernel, whose zeros drop out, are the spec's expansion. -/
theorem convSum_eq_kernelGradient (K : Kernel) (s : State) (a y x : Nat) :
    convSum K s a y x = kernelGradient K s a y x := by
  simp only [convSum, rowMajor_three, pixelWindow_eq_pixel, List.sum_cons, List.sum_nil]
  cases K <;> simp [flippedAt, kernelAt, kernelRows, kernelGradient, ← sub_eq_add_neg] <;> ring

theorem convOutput_eq_map_gradientAt (K : Kernel) (s : State) (a : Nat) :
    convOutput K s a = (List.range (pixels s)).map (gradientAt K s a) :=
  List.map_congr_left fun _ _ => convSum_eq_kernelGradient K s a _ _

theorem gradientAt_index {s : State} {x : Nat} (hx : x < s.imgW) (K : Kernel) (a y : Nat) :
    gradientAt K s a (y * s.imgW + x) = kernelGradient K s a y x := by
  rw [gradientAt, (index_div_mod hx).1, (index_div_mod hx).2]

/-! ### The range check (R162, R268) -/

/-- No exact sum of the convolution overflows. -/
def SumsFit (K : Kernel) (s : State) (a : Nat) : Prop := ∀ k < pixels s, isS32 (gradientAt K s a k)

theorem SumsFit.kernelGradient {K : Kernel} {s : State} {a y x : Nat} (h : SumsFit K s a) (hy : y < s.imgH)
    (hx : x < s.imgW) : isS32 (kernelGradient K s a y x) :=
  gradientAt_index hx K a y ▸ h _ (index_lt hy hx)

/-- The check over all indices is one over all rows and columns. -/
theorem sumsFit_iff {K : Kernel} {s : State} {a : Nat} (hW : 1 ≤ s.imgW) :
    SumsFit K s a ↔ ∀ y x : Nat, y < s.imgH → x < s.imgW → isS32 (kernelGradient K s a y x) :=
  ⟨fun h _ _ hy hx => h.kernelGradient hy hx,
    fun h k hk => h _ _ (Nat.div_lt_of_lt_mul (Nat.mul_comm s.imgH _ ▸ hk)) (Nat.mod_lt k hW)⟩

theorem fitsS32_eq_true_iff (n : Int) : fitsS32 n = true ↔ isS32 n := decide_eq_true_iff

theorem firstOverflow_convOutput_eq_none_iff (K : Kernel) (s : State) (a : Nat) :
    firstOverflow (convOutput K s a) = none ↔ SumsFit K s a := by
  simp [firstOverflow, List.findIdx?_eq_none_iff, convOutput_eq_map_gradientAt, fitsS32_eq_true_iff, SumsFit]

/-! ### CONV -/

theorem exec_convCommand (K : Kernel) (d a : Nat) (s : State) :
    exec (convCommand K d a) s = .next (convolve K d a s) := by
  cases K <;> rfl

section
variable {K : Kernel} {s : State} {d a : Nat}

theorem convolve_of_sumsFit (hd : d < Config.nbuf) (ha : a < Config.nbuf) (hv : validDims s) (hfit : SumsFit K s a) :
    convolve K d a s = commandDone (writeBuffer d (convOutput K s a) s) := by
  rw [convolve, runChecked_ok (by simp [hd, ha]) hv, (firstOverflow_convOutput_eq_none_iff K s a).2 hfit]

theorem convolve_of_not_sumsFit (hd : d < Config.nbuf) (ha : a < Config.nbuf) (hv : validDims s)
    (hfit : ¬ SumsFit K s a) : ∃ k, convolve K d a s = commandFail .overflow k s := by
  obtain ⟨k, hk⟩ := Option.ne_none_iff_exists'.1 (mt (firstOverflow_convOutput_eq_none_iff K s a).1 hfit)
  exact ⟨k, by rw [convolve, runChecked_ok (by simp [hd, ha]) hv, hk]⟩

theorem elem_commit_convOutput {y x : Nat} (hd : d < Config.nbuf) (hy : y < s.imgH) (hx : x < s.imgW)
    (hfit : SumsFit K s a) :
    elem (commandDone (writeBuffer d (convOutput K s a) s)) d (y * s.imgW + x) = kernelGradient K s a y x := by
  have hsum := convSum_eq_kernelGradient K s a y x
  rw [← hsum]
  exact elem_commit_rowMajor hd hy hx (hsum ▸ hfit.kernelGradient hy hx) s

end

/-- CONV with any kernel commits the gradients when all of them fit. -/
theorem convolvesWell_of_kernel (K : Kernel) : convolvesWell K := by
  intro s d a hd ha hv hfit
  refine ⟨_, (exec_convCommand K d a s).trans (congrArg _ (convolve_of_sumsFit hd ha hv hfit)), endedWell_commit d _ s,
    writesOnly_of_writeBuffer hd rfl rfl (length_convOutput K s a).le,
    fun y x hy hx => elem_commit_convOutput hd hy hx hfit⟩

/-! ### The range of a gradient (R167) -/

/-- Every pixel lies in the range of the source elements, widened to hold the 0 of the padding. -/
theorem pixel_bounds {s : State} {a : Nat} {L U : Int} (h : ∀ k < pixels s, L ≤ elem s a k ∧ elem s a k ≤ U)
    (y x : Int) : min L 0 ≤ pixel s a y x ∧ pixel s a y x ≤ max U 0 := by
  by_cases hin : 0 ≤ y ∧ y < s.imgH ∧ 0 ≤ x ∧ x < s.imgW
  · obtain ⟨hy0, hy, hx0, hx⟩ := hin
    lift y to Nat using hy0
    lift x to Nat using hx0
    rw [Nat.cast_lt] at hy hx
    rw [pixel_natCast a hy hx]
    obtain ⟨hL, hU⟩ := h _ (index_lt hy hx)
    exact ⟨min_le_of_left_le hL, le_max_of_le_left hU⟩
  · rw [pixel, if_neg hin]
    exact ⟨min_le_right L 0, le_max_right U 0⟩

/-- A gradient is a sum of three pixels, one of them doubled, minus another such sum. -/
theorem kernelGradient_bounds {s : State} {a : Nat} {l u : Int} (h : ∀ y x, l ≤ pixel s a y x ∧ pixel s a y x ≤ u)
    (K : Kernel) (y x : Int) :
    -(4 * (u - l)) ≤ kernelGradient K s a y x ∧ kernelGradient K s a y x ≤ 4 * (u - l) := by
  have hNW := h (y - 1) (x - 1)
  have hN := h (y - 1) x
  have hNE := h (y - 1) (x + 1)
  have hW := h y (x - 1)
  have hE := h y (x + 1)
  have hSW := h (y + 1) (x - 1)
  have hS := h (y + 1) x
  have hSE := h (y + 1) (x + 1)
  cases K <;> simp only [kernelGradient] <;> omega

theorem gradientAt_bounds {s : State} {a : Nat} {L U : Int} (h : ∀ k < pixels s, L ≤ elem s a k ∧ elem s a k ≤ U)
    (K : Kernel) (k : Nat) :
    -(4 * (max U 0 - min L 0)) ≤ gradientAt K s a k ∧ gradientAt K s a k ≤ 4 * (max U 0 - min L 0) :=
  kernelGradient_bounds (pixel_bounds h) K _ _

/-- The case of 8-bit samples. -/
theorem gradientAt_bounds_of_bytes {s : State} {a : Nat} (h : ∀ k < pixels s, 0 ≤ elem s a k ∧ elem s a k ≤ 255)
    (K : Kernel) (k : Nat) : -1020 ≤ gradientAt K s a k ∧ gradientAt K s a k ≤ 1020 :=
  gradientAt_bounds h K k

theorem sumsFit_of_bytes {s : State} {a : Nat} (h : ∀ k < pixels s, 0 ≤ elem s a k ∧ elem s a k ≤ 255) (K : Kernel) :
    SumsFit K s a := fun k _ => by
  obtain ⟨hlo, hhi⟩ := gradientAt_bounds_of_bytes h K k
  exact ⟨by omega, by omega⟩

/-! ### The mirror of the diagonals (R171) -/

/-- Buffer `a'` of `s'` holds the source in buffer `a` of `s` with its rows in reverse order. -/
def RowsMirrored (s : State) (a : Nat) (s' : State) (a' : Nat) : Prop :=
  ∀ y x, y < s.imgH → x < s.imgW → elem s' a' (y * s.imgW + x) = elem s a ((s.imgH - 1 - y) * s.imgW + x)

section
variable {s s' : State} {a a' : Nat} (hdim : s'.imgDim = s.imgDim) (h : RowsMirrored s a s' a')
include hdim

theorem imgH_congr : s'.imgH = s.imgH := congrArg (bitField · 15 0) hdim

theorem imgW_congr : s'.imgW = s.imgW := congrArg (bitField · 31 16) hdim

include h

/-- The rows outside the image, which are zero, are mirrored too. -/
theorem RowsMirrored.pixel (y x : Int) : pixel s' a' y x = pixel s a (s.imgH - 1 - y) x := by
  by_cases hin : 0 ≤ y ∧ y < s.imgH ∧ 0 ≤ x ∧ x < s.imgW
  · obtain ⟨hy0, hy, hx0, hx⟩ := hin
    lift y to Nat using hy0
    lift x to Nat using hx0
    rw [Nat.cast_lt] at hy hx
    have hrow : (s.imgH : Int) - 1 - y = (s.imgH - 1 - y : Nat) := by omega
    rw [hrow, pixel_natCast a (by omega) hx, pixel_natCast a' (imgH_congr hdim ▸ hy) (imgW_congr hdim ▸ hx),
      imgW_congr hdim, h y x hy hx]
  · rw [Claims.pixel, Claims.pixel, imgH_congr hdim, imgW_congr hdim, if_neg hin, if_neg (by omega)]

/-- The rows above a pixel are the rows below its mirror image, and the kernel `diag135` is `diag45` with its rows in
reverse order and its sign changed. -/
theorem RowsMirrored.kernelGradient {y : Nat} (hy : y < s.imgH) (x : Int) :
    kernelGradient .diag45 s' a' (s.imgH - 1 - y : Nat) x = kernelGradient .diag135 s a y x := by
  have hrow : ((s.imgH - 1 - y : Nat) : Int) = (s.imgH : Int) - 1 - y := by omega
  have hsame : (s.imgH : Int) - 1 - ((s.imgH : Int) - 1 - y) = y := by ring
  have hbelow : (s.imgH : Int) - 1 - ((s.imgH : Int) - 1 - y + 1) = y - 1 := by ring
  have habove : (s.imgH : Int) - 1 - ((s.imgH : Int) - 1 - y - 1) = y + 1 := by ring
  simp only [Claims.kernelGradient, h.pixel hdim, hrow, hsame, hbelow, habove]
  ring

theorem RowsMirrored.sumsFit_iff (hW : 1 ≤ s.imgW) : SumsFit .diag45 s' a' ↔ SumsFit .diag135 s a := by
  rw [Machine.sumsFit_iff hW, Machine.sumsFit_iff (imgW_congr hdim ▸ hW), imgH_congr hdim, imgW_congr hdim]
  constructor
  · intro hfit y x hy hx
    rw [← h.kernelGradient hdim hy]
    exact hfit _ _ (by omega) hx
  · intro hfit y x hy hx
    obtain ⟨z, hz, rfl⟩ : ∃ z < s.imgH, s.imgH - 1 - z = y := ⟨s.imgH - 1 - y, by omega, by omega⟩
    rw [h.kernelGradient hdim hz]
    exact hfit _ _ hz hx

end

end Sys2Proof.Machine

namespace Sys2Proof.Proofs

open Sys2Proof.Machine Sys2Proof.Claims

/-- Settles O45: the expansion of R163 is one case of the correlation, which holds for every kernel. -/
theorem convHWritesRightMinusLeft : Obligations.ConvHWritesRightMinusLeft :=
  convolvesWell_of_kernel .horizontal

/-- Settles O46: the expansion of R164 is one case of the correlation, which holds for every kernel. -/
theorem convVWritesBottomMinusTop : Obligations.ConvVWritesBottomMinusTop :=
  convolvesWell_of_kernel .vertical

/-- Settles O47: the expansion of R165 is one case of the correlation, which holds for every kernel. -/
theorem convD45WritesLowerLeftMinusUpperRight : Obligations.ConvD45WritesLowerLeftMinusUpperRight :=
  convolvesWell_of_kernel .diag45

/-- Settles O48: the expansion of R166 is one case of the correlation, which holds for every kernel. -/
theorem convD135WritesUpperLeftMinusLowerRight : Obligations.ConvD135WritesUpperLeftMinusLowerRight :=
  convolvesWell_of_kernel .diag135

/-- Settles O49: the weights of each sign add up to 4, and 1020 is an S32 value. -/
theorem convSumsStayInRange : Obligations.ConvSumsStayInRange := by
  unfold Obligations.ConvSumsStayInRange
  intro K s a L U k h _
  refine ⟨gradientAt_bounds h K k, ?_⟩
  rintro rfl rfl
  obtain ⟨hlo, hhi⟩ := gradientAt_bounds_of_bytes h K k
  refine ⟨hlo, hhi, fun d hd ha hv => ⟨_, exec_convCommand K d a s, ?_⟩⟩
  rw [convolve_of_sumsFit hd ha hv (sumsFit_of_bytes h K)]
  exact ⟨rfl, rfl⟩

/-- Settles O50: the gradients are each other's with rows reversed, so all of both fit and are committed, or one of each
overflows. -/
theorem diagonalsMirrorEachOther : Obligations.DiagonalsMirrorEachOther := by
  unfold Obligations.DiagonalsMirrorEachOther
  intro s d a s' d' a' t t' hv hdim hparams hd ha hd' ha' hmirror hf hf' ht ht'
  have h : RowsMirrored s a s' a' := hmirror
  have hH := imgH_congr hdim
  have hW := imgW_congr hdim
  have hv' : validDims s' := by rwa [validDims, hH, hW, hparams]
  obtain rfl := Host.Outcome.next.inj ((exec_convCommand .diag135 d a s).symm.trans ht)
  obtain rfl := Host.Outcome.next.inj ((exec_convCommand .diag45 d' a' s').symm.trans ht')
  have hfit_iff := h.sumsFit_iff hdim hv.2.1
  by_cases hfit : SumsFit .diag135 s a
  · have hfit' := hfit_iff.2 hfit
    rw [convolve_of_sumsFit hd ha hv hfit, convolve_of_sumsFit hd' ha' hv' hfit']
    obtain ⟨-, -, herr, -⟩ := hf
    obtain ⟨-, -, herr', -⟩ := hf'
    refine ⟨herr.trans herr'.symm, fun _ y x hy hx => ?_⟩
    rw [elem_commit_convOutput hd hy hx hfit, ← h.kernelGradient hdim hy, ← hW,
      elem_commit_convOutput hd' (by omega) (hW ▸ hx) hfit']
  · obtain ⟨k, hk⟩ := convolve_of_not_sumsFit hd ha hv hfit
    obtain ⟨k', hk'⟩ := convolve_of_not_sumsFit hd' ha' hv' (mt hfit_iff.1 hfit)
    rw [hk, hk']
    exact ⟨rfl, fun hok => nomatch hok⟩

end Sys2Proof.Proofs
end

section
/-! The normalizer (R190 to R205): the two extremes that a scan finds, the rescaling as a monotone function between
them, and NORM and MAGNORM as one commit of the rescaled array. -/

namespace Sys2Proof.Machine

open Sys2Proof.Claims

/-! ### The rescaling (R191, R194, R201) -/

section
variable {mn mx : Int}

theorem rescale_of_ne (h : mn ≠ mx) (x : Int) : rescale mn mx x = 255 * (x - mn) / (mx - mn) := if_neg h

theorem rescale_self (m x : Int) : rescale m m x = 0 := if_pos rfl

theorem rescale_isFloorDiv (h : mn < mx) (x : Int) :
    isFloorDiv (255 * (x - mn)) (mx - mn) (rescale mn mx x) := by
  rw [rescale_of_ne h.ne]
  exact ⟨Int.ediv_mul_le _ (by omega), Int.lt_ediv_add_one_mul_self _ (by omega)⟩

theorem rescale_least (mn mx : Int) : rescale mn mx mn = 0 := by simp [rescale, floorDiv]

theorem rescale_greatest (h : mn ≠ mx) : rescale mn mx mx = 255 := by
  rw [rescale_of_ne h, Int.mul_ediv_cancel _ (by omega)]

theorem rescale_mono (h : mn ≤ mx) {x y : Int} (hxy : x ≤ y) : rescale mn mx x ≤ rescale mn mx y := by
  rcases h.eq_or_lt with rfl | hlt
  · rw [rescale_self, rescale_self]
  · rw [rescale_of_ne hlt.ne, rescale_of_ne hlt.ne]
    exact Int.ediv_le_ediv (by omega) (by omega)

theorem rescale_bounds {x : Int} (hmn : mn ≤ x) (hmx : x ≤ mx) : 0 ≤ rescale mn mx x ∧ rescale mn mx x ≤ 255 := by
  by_cases h : mn = mx
  · subst h
    simp [rescale_self]
  · exact ⟨rescale_least mn mx ▸ rescale_mono (hmn.trans hmx) hmn,
      rescale_greatest h ▸ rescale_mono (hmn.trans hmx) hmx⟩

/-- The factor cancels in the quotient, the offset in both differences. -/
theorem rescale_affine {α : Int} (hα : 1 ≤ α) (β mn mx x : Int) :
    rescale (α * mn + β) (α * mx + β) (α * x + β) = rescale mn mx x := by
  by_cases h : mn = mx
  · rw [h, rescale_self, rescale_self]
  · have hne : α * mn + β ≠ α * mx + β := by simpa [show α ≠ 0 by omega] using h
    have hnum : 255 * (α * x + β - (α * mn + β)) = α * (255 * (x - mn)) := by ring
    have hden : α * mx + β - (α * mn + β) = α * (mx - mn) := by ring
    rw [rescale_of_ne hne, rescale_of_ne h, hnum, hden, Int.mul_ediv_mul_of_pos _ _ (by omega)]

end

/-! ### The scan (R190) -/

/-- `pick` answers one of its two arguments, and one whose value is not above the other's. -/
def PicksLeast {α : Type} (val : α → Int) (pick : α → α → α) : Prop :=
  ∀ x y, (pick x y = x ∨ pick x y = y) ∧ val (pick x y) ≤ val x ∧ val (pick x y) ≤ val y

theorem picksLeast_min : PicksLeast id (min : Int → Int → Int) := fun x y =>
  ⟨min_choice x y, min_le_left x y, min_le_right x y⟩

theorem picksLeast_max : PicksLeast (fun x => -x) (max : Int → Int → Int) := fun x y =>
  ⟨max_choice x y, neg_le_neg (le_max_left x y), neg_le_neg (le_max_right x y)⟩

theorem picksLeast_f64Min : PicksLeast (fun x => (fix52 x : Int)) f64Min := fun x y => by
  by_cases h : fix52 y < fix52 x
  · rw [f64Min, if_pos h]
    exact ⟨.inr rfl, Int.ofNat_le.2 h.le, le_rfl⟩
  · rw [f64Min, if_neg h]
    exact ⟨.inl rfl, le_rfl, Int.ofNat_le.2 (not_lt.1 h)⟩

theorem picksLeast_f64Max : PicksLeast (fun x => -(fix52 x : Int)) f64Max := fun x y => by
  by_cases h : fix52 x < fix52 y
  · rw [f64Max, if_pos h]
    exact ⟨.inr rfl, neg_le_neg (Int.ofNat_le.2 h.le), le_rfl⟩
  · rw [f64Max, if_neg h]
    exact ⟨.inl rfl, le_rfl, neg_le_neg (Int.ofNat_le.2 (not_lt.1 h))⟩

/-- A linear scan finds a member of the array with the least value. -/
theorem PicksLeast.foldl {α : Type} {val : α → Int} {pick : α → α → α} (h : PicksLeast val pick) (xs : List α) :
    ∀ x, xs.foldl pick x ∈ x :: xs ∧ ∀ y ∈ x :: xs, val (xs.foldl pick x) ≤ val y := by
  induction xs with
  | nil => simp
  | cons z zs ih =>
    intro x
    obtain ⟨hchoice, hx, hz⟩ := h x z
    obtain ⟨hmem, hle⟩ := ih (pick x z)
    obtain ⟨hpick, hzs⟩ := List.forall_mem_cons.1 hle
    refine ⟨?_, List.forall_mem_cons.2 ⟨hpick.trans hx, List.forall_mem_cons.2 ⟨hpick.trans hz, hzs⟩⟩⟩
    rcases List.mem_cons.1 hmem with heq | htail
    · rw [List.foldl_cons, heq]
      rcases hchoice with hc | hc <;> simp [hc]
    · exact List.mem_cons_of_mem _ (List.mem_cons_of_mem _ htail)

theorem leastOf_spec {l : List Int} (hl : l ≠ []) : leastOf l ∈ l ∧ ∀ y ∈ l, leastOf l ≤ y := by
  obtain ⟨x, xs, rfl⟩ := List.exists_cons_of_ne_nil hl
  exact picksLeast_min.foldl xs x

theorem greatestOf_spec {l : List Int} (hl : l ≠ []) : greatestOf l ∈ l ∧ ∀ y ∈ l, y ≤ greatestOf l := by
  obtain ⟨x, xs, rfl⟩ := List.exists_cons_of_ne_nil hl
  obtain ⟨hmem, hle⟩ := picksLeast_max.foldl xs x
  exact ⟨hmem, fun y hy => neg_le_neg_iff.1 (hle y hy)⟩

theorem leastF64_spec {l : List F64} (hl : l ≠ []) : leastF64 l ∈ l ∧ ∀ y ∈ l, fix52 (leastF64 l) ≤ fix52 y := by
  obtain ⟨x, xs, rfl⟩ := List.exists_cons_of_ne_nil hl
  obtain ⟨hmem, hle⟩ := picksLeast_f64Min.foldl xs x
  exact ⟨hmem, fun y hy => Int.ofNat_le.1 (hle y hy)⟩

theorem greatestF64_spec {l : List F64} (hl : l ≠ []) :
    greatestF64 l ∈ l ∧ ∀ y ∈ l, fix52 y ≤ fix52 (greatestF64 l) := by
  obtain ⟨x, xs, rfl⟩ := List.exists_cons_of_ne_nil hl
  obtain ⟨hmem, hle⟩ := picksLeast_f64Max.foldl xs x
  exact ⟨hmem, fun y hy => Int.ofNat_le.1 (neg_le_neg_iff.1 (hle y hy))⟩

/-! ### The extremes of an array -/

section
variable {n : Nat} {x : Nat → Int} {mn mx : Int}

theorem isLeast_leastOf (hn : 0 < n) (x : Nat → Int) : isLeast n x (leastOf ((List.range n).map x)) := by
  have h := leastOf_spec (l := (List.range n).map x) (by simp; omega)
  simpa [isLeast] using h

theorem isGreatest_greatestOf (hn : 0 < n) (x : Nat → Int) : isGreatest n x (greatestOf ((List.range n).map x)) := by
  have h := greatestOf_spec (l := (List.range n).map x) (by simp; omega)
  simpa [isGreatest] using h

theorem exists_extremes (hn : 0 < n) (x : Nat → Int) : ∃ mn mx, isLeast n x mn ∧ isGreatest n x mx :=
  ⟨_, _, isLeast_leastOf hn x, isGreatest_greatestOf hn x⟩

theorem isLeast_unique {m : Int} (h : isLeast n x mn) (h' : isLeast n x m) : mn = m := by
  obtain ⟨⟨j, hj, rfl⟩, hle⟩ := h
  obtain ⟨⟨k, hk, rfl⟩, hle'⟩ := h'
  exact le_antisymm (hle k hk) (hle' j hj)

theorem isGreatest_unique {m : Int} (h : isGreatest n x mx) (h' : isGreatest n x m) : mx = m := by
  obtain ⟨⟨j, hj, rfl⟩, hle⟩ := h
  obtain ⟨⟨k, hk, rfl⟩, hle'⟩ := h'
  exact le_antisymm (hle' j hj) (hle k hk)

theorem le_of_isLeast_of_isGreatest (hmn : isLeast n x mn) (hmx : isGreatest n x mx) : mn ≤ mx := by
  obtain ⟨⟨j, hj, rfl⟩, -⟩ := hmn
  exact hmx.2 j hj

theorem extremes_of_constant {v : Int} (hn : 0 < n) (h : ∀ k < n, x k = v) : isLeast n x v ∧ isGreatest n x v :=
  ⟨⟨⟨0, hn, h 0 hn⟩, fun k hk => (h k hk).ge⟩, ⟨0, hn, h 0 hn⟩, fun k hk => (h k hk).le⟩

theorem extremes_affine {x' : Nat → Int} {α β : Int} (hα : 1 ≤ α) (h : ∀ k < n, x' k = α * x k + β)
    (hmn : isLeast n x mn) (hmx : isGreatest n x mx) :
    isLeast n x' (α * mn + β) ∧ isGreatest n x' (α * mx + β) := by
  have hmono {u v : Int} (huv : u ≤ v) : α * u + β ≤ α * v + β := by gcongr
  obtain ⟨⟨i, hi, rfl⟩, hle⟩ := hmn
  obtain ⟨⟨j, hj, rfl⟩, hge⟩ := hmx
  exact ⟨⟨⟨i, hi, h i hi⟩, fun k hk => h k hk ▸ hmono (hle k hk)⟩,
    ⟨j, hj, h j hj⟩, fun k hk => h k hk ▸ hmono (hge k hk)⟩

end

/-! ### The end of a normalization -/

theorem elem_commitNormalized_map {d n k : Nat} {f : Nat → Int} (hd : d < Config.nbuf) (hk : k < n)
    (hf : isS32 (f k)) (g : Bool) (lo hi : BitVec 64) (s : State) :
    elem (commitNormalized d ((List.range n).map f) g lo hi s) d k = f k := by
  have hval : ((List.range n).map f).getD k 0 = f k := by simp [List.getD_eq_getElem?_getD, hk]
  calc elem (commitNormalized d ((List.range n).map f) g lo hi s) d k
    _ = elem (writeBuffer d ((List.range n).map f) s) d k := rfl
    _ = ((List.range n).map f).getD k 0 := elem_writeBuffer hd _ s (by simpa using hk) (by rw [hval]; exact hf)
    _ = f k := hval

/-- The state that the normalization of x[0], …, x[H·W − 1], whose extremes are `mn` and `mx`, leaves. -/
def rescaled (d : Nat) (x : Nat → Int) (mn mx : Int) (lo hi : BitVec 64) (s : State) : State :=
  commitNormalized d ((List.range (pixels s)).map fun k => rescale mn mx (x k)) (decide (mn = mx)) lo hi s

section
variable {s : State} {d : Nat} {x : Nat → Int} {mn mx : Int}

theorem normalizedWell_rescaled (d : Nat) (x : Nat → Int) (mn mx : Int) (lo hi : BitVec 64) (s : State) :
    normalizedWell s (rescaled d x mn mx lo hi s) (decide (mn = mx)) lo hi := rfl

theorem writesOnly_rescaled (hd : d < Config.nbuf) (x : Nat → Int) (mn mx : Int) (lo hi : BitVec 64) (s : State) :
    writesOnly s (rescaled d x mn mx lo hi s) d (pixels s) :=
  writesOnly_commitNormalized hd (by simp) _ lo hi s

/-- A rescaled element lies in [0, 255], so it is read back as it was computed. -/
theorem elem_rescaled (hd : d < Config.nbuf) (hmn : isLeast (pixels s) x mn) (hmx : isGreatest (pixels s) x mx)
    (lo hi : BitVec 64) {k : Nat} (hk : k < pixels s) :
    elem (rescaled d x mn mx lo hi s) d k = rescale mn mx (x k) := by
  obtain ⟨h0, h255⟩ := rescale_bounds (hmn.2 k hk) (hmx.2 k hk)
  exact elem_commitNormalized_map hd hk ⟨by omega, by omega⟩ _ lo hi s

/-- R191, R197: a normalization with different extremes. -/
theorem rescaled_exact (hd : d < Config.nbuf) (hmn : isLeast (pixels s) x mn) (hmx : isGreatest (pixels s) x mx)
    (hne : mn ≠ mx) (lo hi : BitVec 64) :
    normalizedWell s (rescaled d x mn mx lo hi s) false lo hi ∧
      writesOnly s (rescaled d x mn mx lo hi s) d (pixels s) ∧
      ∀ k < pixels s, isFloorDiv (255 * (x k - mn)) (mx - mn) (elem (rescaled d x mn mx lo hi s) d k) := by
  have hlt : mn < mx := lt_of_le_of_ne (le_of_isLeast_of_isGreatest hmn hmx) hne
  refine ⟨decide_eq_false hne ▸ normalizedWell_rescaled d x mn mx lo hi s, writesOnly_rescaled hd x mn mx lo hi s,
    fun k hk => ?_⟩
  rw [elem_rescaled hd hmn hmx lo hi hk]
  exact rescale_isFloorDiv hlt (x k)

/-- R193, R198: a degenerate normalization. -/
theorem rescaled_degenerate {v : Int} (hd : d < Config.nbuf) (hn : 0 < pixels s) (h : ∀ k < pixels s, x k = v)
    (lo hi : BitVec 64) :
    normalizedWell s (rescaled d x v v lo hi s) true lo hi ∧
      writesOnly s (rescaled d x v v lo hi s) d (pixels s) ∧
      ∀ k < pixels s, elem (rescaled d x v v lo hi s) d k = 0 := by
  obtain ⟨hmn, hmx⟩ := extremes_of_constant hn h
  refine ⟨decide_eq_true (rfl : v = v) ▸ normalizedWell_rescaled d x v v lo hi s, writesOnly_rescaled hd x v v lo hi s,
    fun k hk => ?_⟩
  rw [elem_rescaled hd hmn hmx lo hi hk, rescale_self]

/-- R194, R203: the range, both ends and the order of a normalization's output. -/
theorem rescaled_spans (hd : d < Config.nbuf) (hmn : isLeast (pixels s) x mn) (hmx : isGreatest (pixels s) x mx)
    (hne : mn ≠ mx) (lo hi : BitVec 64) {k : Nat} (hk : k < pixels s) :
    (0 ≤ elem (rescaled d x mn mx lo hi s) d k ∧ elem (rescaled d x mn mx lo hi s) d k ≤ 255) ∧
      (x k = mn → elem (rescaled d x mn mx lo hi s) d k = 0) ∧
      (x k = mx → elem (rescaled d x mn mx lo hi s) d k = 255) ∧
      ∀ j < pixels s, x k ≤ x j →
        elem (rescaled d x mn mx lo hi s) d k ≤ elem (rescaled d x mn mx lo hi s) d j := by
  rw [elem_rescaled hd hmn hmx lo hi hk]
  refine ⟨rescale_bounds (hmn.2 k hk) (hmx.2 k hk), fun h => ?least, fun h => ?greatest, fun j hj h => ?mono⟩
  case least => rw [h, rescale_least]
  case greatest => rw [h, rescale_greatest hne]
  case mono =>
    rw [elem_rescaled hd hmn hmx lo hi hj]
    exact rescale_mono (le_of_isLeast_of_isGreatest hmn hmx) h

end

/-! ### NORM -/

theorem pixels_pos {s : State} (hv : validDims s) : 0 < pixels s := Nat.mul_pos hv.1 hv.2.1

theorem exec_norm_of_valid {s : State} {d a : Nat} {mn mx : Int} (hd : d < Config.nbuf) (ha : a < Config.nbuf)
    (hv : validDims s) (hmn : isLeast (pixels s) (elem s a) mn) (hmx : isGreatest (pixels s) (elem s a) mx) :
    exec (.norm d a) s =
      .next (rescaled d (elem s a) mn mx (BitVec.ofInt 64 mn) (BitVec.ofInt 64 mx) s) := by
  have hleast : leastOf (sourceOf s a) = mn := isLeast_unique (isLeast_leastOf (pixels_pos hv) _) hmn
  have hgreatest : greatestOf (sourceOf s a) = mx := isGreatest_unique (isGreatest_greatestOf (pixels_pos hv) _) hmx
  have hmap (f : Int → Int) : (sourceOf s a).map f = (List.range (pixels s)).map fun k => f (elem s a k) :=
    List.map_map
  refine congrArg Host.Outcome.next ((runChecked_ok (by simp [hd, ha]) hv _).trans ?_)
  rw [normalize, hleast, hgreatest, hmap, rescaled]

/-! ### MAGNORM (R196, R203) -/

/-- A normalized value is determined by its place on the fix52 scale: the binades do not overlap. -/
theorem F64.normal.eq_of_fix52_eq {x y : F64} (hx : x.normal) (hy : y.normal) (h : fix52 x = fix52 y) : x = y := by
  by_cases h0 : x.sig = 0
  · rw [hx.eq_zero h0, hy.eq_zero (fix52_eq_zero.1 (h ▸ fix52_eq_zero.2 h0))]
  · obtain ⟨hxlo, hxhi⟩ := hx.fix52_bounds h0
    obtain ⟨hylo, hyhi⟩ := hy.fix52_bounds fun hy0 => h0 (fix52_eq_zero.1 (h ▸ fix52_eq_zero.2 hy0))
    have hbinade {e f : Nat} (hlt : 2 ^ 52 * 2 ^ e < 2 ^ 53 * 2 ^ f) : e ≤ f :=
      Nat.lt_succ_iff.1 ((Nat.pow_lt_pow_iff_right (by norm_num : 1 < 2)).1 (by rw [Nat.pow_succ]; omega))
    have hexp : x.exp = y.exp := le_antisymm (hbinade (by omega)) (hbinade (by omega))
    rw [fix52, fix52, hexp] at h
    have hsig : x.sig = y.sig := Nat.eq_of_mul_eq_mul_right (Nat.two_pow_pos y.exp) h
    exact congrArg₂ F64.mk hsig hexp

theorem fix52_f64_mono {n m : Nat} (h : n ≤ m) : fix52 (f64 n) ≤ fix52 (f64 m) := by
  by_contra hlt
  obtain ⟨hbelow, -, -⟩ := f64_midpoints n (f64_normal m)
  obtain ⟨-, habove, -⟩ := f64_midpoints m (f64_normal n)
  have := hbelow (by omega)
  have := habove (by omega)
  obtain rfl : n = m := by omega
  omega

theorem fix52_f64Sqrt_mono {x y : F64} (hx : x.normal) (hy : y.normal) (h : fix52 x ≤ fix52 y) :
    fix52 (f64Sqrt x) ≤ fix52 (f64Sqrt y) := by
  by_cases h0 : x.sig = 0
  · rw [fix52_eq_zero.2 ((f64Sqrt_sig_eq_zero hx).2 h0)]
    exact Nat.zero_le _
  · have hy0 : y.sig ≠ 0 := fun hy0 => h0 (fix52_eq_zero.1 (Nat.le_zero.1 (fix52_eq_zero.2 hy0 ▸ h)))
    by_contra hlt
    obtain ⟨hbelow, -⟩ := f64Sqrt_midpoints hx h0 (f64Sqrt_normal hy)
    obtain ⟨-, habove⟩ := f64Sqrt_midpoints hy hy0 (f64Sqrt_normal hx)
    have := hbelow (by omega)
    have := habove (by omega)
    omega

/-- Both roundings keep the order of the sums of squares. -/
theorem magnitude_mono {s : State} {a b j k : Nat} (h : sumOfSquares s a b k ≤ sumOfSquares s a b j) :
    magnitude s a b k ≤ magnitude s a b j :=
  Int.ofNat_le.2 (fix52_f64Sqrt_mono (f64_normal _) (f64_normal _) (fix52_f64_mono h))

theorem magnitudeAt_eq_of_magnitude_eq {s : State} {a b j k : Nat} (h : magnitude s a b j = magnitude s a b k) :
    magnitudeAt s a b j = magnitudeAt s a b k :=
  (magnitudeAt_normal s a b j).eq_of_fix52_eq (magnitudeAt_normal s a b k) (Int.ofNat_inj.1 h)

theorem mem_magnitudesOf {s : State} {a b : Nat} {m : F64} :
    m ∈ magnitudesOf s a b ↔ ∃ k < pixels s, magnitudeAt s a b k = m := by
  simp [magnitudesOf, pixels]

section
variable {s : State} {a b : Nat}

theorem magnitudesOf_ne_nil (hv : validDims s) : magnitudesOf s a b ≠ [] :=
  List.ne_nil_of_mem (mem_magnitudesOf.2 ⟨0, pixels_pos hv, rfl⟩)

theorem leastF64_magnitudesOf {jn : Nat} (hv : validDims s) (hjn : jn < pixels s)
    (hle : ∀ k < pixels s, magnitude s a b jn ≤ magnitude s a b k) :
    leastF64 (magnitudesOf s a b) = magnitudeAt s a b jn := by
  obtain ⟨hmem, hleast⟩ := leastF64_spec (magnitudesOf_ne_nil (a := a) (b := b) hv)
  obtain ⟨k, hk, hm⟩ := mem_magnitudesOf.1 hmem
  rw [← hm] at hleast ⊢
  have hge : magnitude s a b k ≤ magnitude s a b jn := Int.ofNat_le.2 (hleast _ (mem_magnitudesOf.2 ⟨jn, hjn, rfl⟩))
  exact magnitudeAt_eq_of_magnitude_eq (le_antisymm hge (hle k hk))

theorem greatestF64_magnitudesOf {jx : Nat} (hv : validDims s) (hjx : jx < pixels s)
    (hge : ∀ k < pixels s, magnitude s a b k ≤ magnitude s a b jx) :
    greatestF64 (magnitudesOf s a b) = magnitudeAt s a b jx := by
  obtain ⟨hmem, hgreatest⟩ := greatestF64_spec (magnitudesOf_ne_nil (a := a) (b := b) hv)
  obtain ⟨k, hk, hm⟩ := mem_magnitudesOf.1 hmem
  rw [← hm] at hgreatest ⊢
  have hle : magnitude s a b jx ≤ magnitude s a b k :=
    Int.ofNat_le.2 (hgreatest _ (mem_magnitudesOf.2 ⟨jx, hjx, rfl⟩))
  exact magnitudeAt_eq_of_magnitude_eq (le_antisymm (hge k hk) hle)

theorem exec_magnorm_of_valid {d jn jx : Nat} (hd : d < Config.nbuf) (ha : a < Config.nbuf) (hb : b < Config.nbuf)
    (hv : validDims s) (hjn : jn < pixels s) (hjx : jx < pixels s)
    (hle : ∀ k < pixels s, magnitude s a b jn ≤ magnitude s a b k)
    (hge : ∀ k < pixels s, magnitude s a b k ≤ magnitude s a b jx) :
    exec (.magnorm d a b) s =
      .next (rescaled d (magnitude s a b) (magnitude s a b jn) (magnitude s a b jx)
        (f64Bits (magnitudeAt s a b jn)) (f64Bits (magnitudeAt s a b jx)) s) := by
  have hmap (f : F64 → Int) :
      (magnitudesOf s a b).map f = (List.range (pixels s)).map fun k => f (magnitudeAt s a b k) := List.map_map
  have hdegenerate : decide (fix52 (magnitudeAt s a b jn) = fix52 (magnitudeAt s a b jx)) =
      decide (magnitude s a b jn = magnitude s a b jx) := decide_eq_decide.2 Int.ofNat_inj.symm
  refine congrArg Host.Outcome.next ((runChecked_ok (by simp [hd, ha, hb]) hv _).trans ?_)
  rw [normalizeMagnitudes, leastF64_magnitudesOf hv hjn hle, greatestF64_magnitudesOf hv hjx hge, hmap, hdegenerate]
  rfl

end

end Sys2Proof.Machine

namespace Sys2Proof.Proofs

open Sys2Proof.Machine Sys2Proof.Claims

/-- Settles O51: NORM commits the rescaled source, whose extremes differ. -/
theorem normRescalesExactly : Obligations.NormRescalesExactly := by
  unfold Obligations.NormRescalesExactly
  intro s d a mn mx hd ha hv hmn hmx hne
  exact ⟨_, exec_norm_of_valid hd ha hv hmn hmx, rescaled_exact hd hmn hmx hne _ _⟩

/-- Settles O52: the value of a constant array is both of its extremes. -/
theorem normOfConstantArrayIsDegenerate : Obligations.NormOfConstantArrayIsDegenerate := by
  unfold Obligations.NormOfConstantArrayIsDegenerate
  intro s d a v hd ha hv hconst
  obtain ⟨hmn, hmx⟩ := extremes_of_constant (pixels_pos hv) hconst
  exact ⟨_, exec_norm_of_valid hd ha hv hmn hmx, rescaled_degenerate hd (pixels_pos hv) hconst _ _⟩

/-- Settles O53: the rescaling is monotone and takes the extremes to 0 and 255. -/
theorem normSpansTheByteRange : Obligations.NormSpansTheByteRange := by
  unfold Obligations.NormSpansTheByteRange
  intro s d a mn mx t hd ha hv hmn hmx hne ht k hk
  obtain rfl := Host.Outcome.next.inj ((exec_norm_of_valid hd ha hv hmn hmx).symm.trans ht)
  exact rescaled_spans hd hmn hmx hne _ _ hk

/-- Settles O54: the extremes of the second source are the affine images of those of the first, and the rescaling
depends only on where an element lies between its extremes. -/
theorem normIsAffineInvariant : Obligations.NormIsAffineInvariant := by
  unfold Obligations.NormIsAffineInvariant
  intro s d a s' d' a' α β t t' hα hd ha hd' ha' hv hdim hparams haffine _ ht ht' k hk
  have hH := imgH_congr hdim
  have hW := imgW_congr hdim
  have hv' : validDims s' := by rwa [validDims, hH, hW, hparams]
  have hpixels : pixels s' = pixels s := by rw [pixels, pixels, hH, hW]
  obtain ⟨mn, mx, hmn, hmx⟩ := exists_extremes (pixels_pos hv) (elem s a)
  obtain ⟨hmn', hmx'⟩ := extremes_affine hα haffine hmn hmx
  rw [← hpixels] at hmn' hmx'
  obtain rfl := Host.Outcome.next.inj ((exec_norm_of_valid hd ha hv hmn hmx).symm.trans ht)
  obtain rfl := Host.Outcome.next.inj ((exec_norm_of_valid hd' ha' hv' hmn' hmx').symm.trans ht')
  rw [elem_rescaled hd' hmn' hmx' _ _ (hpixels ▸ hk), elem_rescaled hd hmn hmx _ _ hk, haffine k hk,
    rescale_affine hα]

/-- Settles O55: MAGNORM commits the rescaled magnitudes, whose extremes differ. -/
theorem magnormRescalesExactly : Obligations.MagnormRescalesExactly := by
  unfold Obligations.MagnormRescalesExactly
  intro s d a b jn jx hd ha hb hv hjn hjx hle hge hne
  exact ⟨_, exec_magnorm_of_valid hd ha hb hv hjn hjx hle hge,
    rescaled_exact hd ⟨⟨jn, hjn, rfl⟩, hle⟩ ⟨⟨jx, hjx, rfl⟩, hge⟩ hne _ _⟩

/-- Settles O56: the common magnitude is both the least and the greatest. -/
theorem magnormOfEqualMagnitudesIsDegenerate : Obligations.MagnormOfEqualMagnitudesIsDegenerate := by
  unfold Obligations.MagnormOfEqualMagnitudesIsDegenerate
  intro s d a b hd ha hb hv hconst
  have hn := pixels_pos hv
  exact ⟨_, exec_magnorm_of_valid hd ha hb hv hn hn (fun k hk => (hconst k hk).ge) (fun k hk => (hconst k hk).le),
    rescaled_degenerate hd hn hconst _ _⟩

/-- Settles O57: magnitudes keep the order of the sums of squares, and the rescaling that of the magnitudes. -/
theorem magnormSpansTheByteRange : Obligations.MagnormSpansTheByteRange := by
  unfold Obligations.MagnormSpansTheByteRange
  intro s d a b jn jx t hd ha hb hv hjn hjx hle hge hne ht k hk
  obtain rfl := Host.Outcome.next.inj ((exec_magnorm_of_valid hd ha hb hv hjn hjx hle hge).symm.trans ht)
  obtain ⟨hrange, hleast, hgreatest, hmono⟩ :=
    rescaled_spans hd ⟨⟨jn, hjn, rfl⟩, hle⟩ ⟨⟨jx, hjx, rfl⟩, hge⟩ hne (f64Bits (magnitudeAt s a b jn))
      (f64Bits (magnitudeAt s a b jx)) hk
  exact ⟨hrange, hleast, hgreatest, fun j hj hsum => hmono j hj (magnitude_mono hsum)⟩

end Sys2Proof.Proofs
end

section
/-! The system operations (R230 to R239): the idle engine's turn, NOP, the two ends of a completion, and why no number of
host turns before the completion shows in what it leaves. -/

namespace Sys2Proof.Machine

/-! ### The idle engine (R282) -/

theorem engineTurn_of_idle {s : State} (hb : s.status.busy = false) : engineTurn s = .next s :=
  if_neg (by simp [hb])

/-- At the engine's turn with no command in flight, only the turn is taken. -/
theorem step_of_idleEngine {s : State} {later : List Turn} (hb : s.status.busy = false)
    (ht : s.turns = .engine :: later) : step s = .next { s with turns := later } := by
  rw [step, ht]
  exact engineTurn_of_idle hb

/-! ### NOP (R234, R99) -/

/-- Of the words with OP = 0 the decoder accepts the word 0 alone: any other has a bit set that R95 wants clear. -/
theorem decode_of_opField_eq_zero {w : Word} (hop : opField w = 0) :
    decode w = if w = 0 then .instr .nop else .illegalOp := by
  by_cases hrsvd : rsvdField w = 0
  · by_cases hbits : bitField w 19 4 = 0
    · obtain ⟨hksel, hdst, hsrca, hsrcb⟩ := fields_eq_zero_of_nop_bits hbits
      have hw : w = 0 := by
        rw [← assemble_wordFields hrsvd, hop, hksel, hdst, hsrca, hsrcb]
        rfl
      rw [if_pos hw, hw]
      exact decode_encode (i := .nop) rfl
    · have hw : w ≠ 0 := fun h => hbits (h ▸ rfl)
      rw [if_neg hw]
      simp [decode, hrsvd, hop, hbits]
  · have hw : w ≠ 0 := fun h => hrsvd (h ▸ rfl)
    rw [if_neg hw]
    simp [decode, hrsvd]

/-! ### What no host turn does -/

@[simp] theorem portRead_turns (s : State) : (portRead s).2.turns = s.turns := by
  rcases portRead_cases s with ⟨-, e⟩ | ⟨-, -, e⟩ | ⟨-, -, e⟩ <;> rw [e] <;> rfl

@[simp] theorem portWrite_turns (v : Word) (s : State) : (portWrite v s).turns = s.turns := by
  rcases portWrite_cases v s with ⟨-, e⟩ | ⟨-, -, e⟩ | ⟨-, -, e⟩ <;> rw [e] <;> rfl

@[simp] theorem hostRead_turns (off : Nat) (s : State) : (hostRead off s).2.turns = s.turns := by
  rcases hostRead_cases off s with e | ⟨-, e⟩ <;> rw [e]
  exact portRead_turns s

@[simp] theorem hostWrite_turns (off : Nat) (v : Word) (s : State) : (hostWrite off v s).turns = s.turns := by
  rcases hostWrite_cases off v s with
    e | ⟨-, e⟩ | ⟨-, e⟩ | ⟨-, e⟩ | ⟨-, -, e⟩ | ⟨-, e⟩ | e | e | e | e <;> simp [e]

/-- The order of the agents is not the host's to change. -/
@[simp] theorem hostTurn_turns (s : State) : (hostTurn s).turns = s.turns := by
  obtain ⟨u, agent, e, hu⟩ := hostTurn_cases s
  rw [e]
  rcases hu with rfl | ⟨off, rfl⟩ | ⟨off, v, rfl⟩
  · rfl
  · exact hostRead_turns off s
  · exact hostWrite_turns off v s

/-- No host access sets ERR: only a failing completion does (R31). -/
theorem hostTurn_err_of_clear {s : State} (he : s.status.err = false) : (hostTurn s).status.err = false := by
  obtain ⟨u, agent, e, hu⟩ := hostTurn_cases s
  rw [e]
  rcases hu with rfl | ⟨off, rfl⟩ | ⟨off, v, rfl⟩
  · exact he
  · rcases hostRead_status_cases off s with e | e | e <;> simp [e, he]
  · rcases hostWrite_status_cases off v s with e | e | e | ⟨-, -, e⟩ | ⟨-, e⟩ <;> simp [e, he]

/-- The state with the given turns still to come. -/
def withTurns (later : List Turn) (s : State) : State := { s with turns := later }

theorem flightOf_withTurns (later : List Turn) (s : State) : flightOf (withTurns later s) = flightOf s := rfl

/-- A host turn while BUSY: the turn is taken, and the command in flight stays what it was, with ERR clear. -/
theorem step_hostTurn_of_inFlight {s : State} {later : List Turn} (hb : s.status.busy = true)
    (he : s.status.err = false) (ht : s.turns = .host :: later) :
    ∃ t, step s = .next t ∧ t.turns = later ∧ flightOf t = flightOf s ∧ t.status.err = false :=
  ⟨hostTurn (withTurns later s), step_of_hostNext (.inl ht), hostTurn_turns _,
    (flightOf_hostTurn (s := withTurns later s) hb).trans (flightOf_withTurns later s), hostTurn_err_of_clear he⟩

/-- Through any number of host turns the command in flight stays what it was, with ERR clear. -/
theorem run_hostTurns {s : State} {later : List Turn} (n k : Nat) (hb : s.status.busy = true)
    (he : s.status.err = false) (ht : s.turns = List.replicate n .host ++ later) :
    ∃ s', Host.Core.run Sys2Proof.core (n + k) s = Host.Core.run Sys2Proof.core k s' ∧ s'.turns = later ∧
      flightOf s' = flightOf s ∧ s'.status.err = false := by
  induction n generalizing s with
  | zero => exact ⟨s, by rw [Nat.zero_add], ht, rfl, he⟩
  | succ n ih =>
    obtain ⟨u, hstep, hlater, hflight, heu⟩ := step_hostTurn_of_inFlight hb he ht
    obtain ⟨hbusy, -⟩ := flightOf_eq_iff.1 hflight
    obtain ⟨s', hrun, hturns, hsame, herr⟩ := ih (hbusy.trans hb) heu hlater
    refine ⟨s', ?_, hturns, hsame.trans hflight, herr⟩
    rw [Nat.succ_add, run_succ hstep, hrun]

/-! ### The completion of the same command in flight in two states -/

/-- A function that reads nothing but what `flightOf` keeps agrees on states with the same command in flight. -/
theorem congr_of_flightOf {α : Type*} {f : State → α} (hf : ∀ s, f (flightOf s) = f s) {s s' : State}
    (h : flightOf s' = flightOf s) : f s' = f s := by
  rw [← hf s', h, hf s]

section
variable {s s' t t' : State} (h : flightOf s' = flightOf s)
include h

/-- What the completion does is decided by the command in flight and its inputs. -/
theorem complete_endsAlike : ∃ t t', complete s = .next t ∧ complete s' = .next t' ∧ EndsAlike s s' t t' := by
  have hcmd : s'.cmd = s.cmd := congr_of_flightOf (f := State.cmd) (fun _ => rfl) h
  have hinputs : inputsOf s' = inputsOf s := congr_of_flightOf (f := inputsOf) (fun _ => rfl) h
  unfold complete
  rw [hcmd]
  cases decode s.cmd with
  | instr i => exact exec_endsAlike hinputs i
  | illegalOp => exact ⟨_, _, rfl, rfl, .fails .illegalOp 0⟩
  | shapeMismatch => exact ⟨_, _, rfl, rfl, .fails .shapeMismatch 0⟩

theorem EndsAlike.flightOf_eq (hends : EndsAlike s s' t t') : flightOf t' = flightOf t := by
  cases hends with
  | fails code info => exact congr_of_flightOf (f := fun s => flightOf (commandFail code info s)) (fun _ => rfl) h
  | nothing => exact congr_of_flightOf (f := fun s => flightOf (commandDone s)) (fun _ => rfl) h
  | commits d out =>
    exact congr_of_flightOf (f := fun s => flightOf (commandDone (writeBuffer d out s))) (fun _ => rfl) h
  | normalizes d out g lo hi =>
    exact congr_of_flightOf (f := fun s => flightOf (commitNormalized d out g lo hi s)) (fun _ => rfl) h

end

/-- ERR, which `flightOf` forgets, is set by the failing end only. -/
theorem EndsAlike.err_eq {s s' t t' : State} (hends : EndsAlike s s' t t') (he : s'.status.err = s.status.err) :
    t'.status.err = t.status.err := by
  cases hends with
  | fails => rfl
  | nothing => exact he
  | commits => exact he
  | normalizes => exact he

theorem complete_turns {s t : State} (h : complete s = .next t) : t.turns = s.turns := by
  rcases complete_fails_or_done h with ⟨code, info, -, rfl⟩ | e
  · rfl
  · rw [e]

end Sys2Proof.Machine

namespace Sys2Proof.Proofs

open Sys2Proof.Machine Sys2Proof.Claims

/-- Settles O13: the engine's turn is a completion only while a command is in flight. -/
theorem idleEngineKeepsEverything : Obligations.IdleEngineKeepsEverything := by
  unfold Obligations.IdleEngineKeepsEverything
  exact fun s later hb ht => step_of_idleEngine hb ht

/-- Settles O38: NOP is `done()`, and the decoder accepts one word with OP = 0. -/
theorem nopOnlyEndsTheCommand : Obligations.NopOnlyEndsTheCommand := by
  unfold Obligations.NopOnlyEndsTheCommand
  refine ⟨fun s => rfl, fun w hop => ?_⟩
  rw [decode_of_opField_eq_zero hop]
  by_cases hw : w = 0 <;> simp [hw]

/-- Settles O28: a completion that does not fail leaves the outcome fields as issue cleared them. -/
theorem completionEndsWellOrFailsPrecisely : Obligations.CompletionEndsWellOrFailsPrecisely := by
  unfold Obligations.CompletionEndsWellOrFailsPrecisely
  intro s ⟨_, _, herr, _, hcode, hinfo⟩
  obtain ⟨t, ht, -⟩ := complete_ends s
  refine ⟨t, ht, ?_⟩
  rcases complete_fails_or_done ht with ⟨code, info, hc, rfl⟩ | e
  · exact .inl ⟨code, BitVec.ofNat 32 info, hc, rfl⟩
  · refine .inr ⟨?_, ?_, ?_, ?_, ?_, e⟩ <;> rw [e]
    · exact herr
    · exact hcode
    · exact hinfo

/-- Settles O18: the host turns leave the command in flight what it was, and that decides how the completion ends. -/
theorem completionDelayIsInvisible : Obligations.CompletionDelayIsInvisible := by
  unfold Obligations.CompletionDelayIsInvisible
  intro s n later ⟨hb, _, herr, _, _, _⟩ ht
  obtain ⟨s', hrun, hturns, hflight, herr'⟩ := run_hostTurns n 1 hb herr ht
  obtain ⟨hbusy, -⟩ := flightOf_eq_iff.1 hflight
  have hsame : flightOf (withTurns later s') = flightOf (withTurns later s) := hflight
  obtain ⟨u, t, hu, hcomplete, hends⟩ := complete_endsAlike hsame
  have hdelayed : step s' = .next t := (step_of_engineNext ⟨hbusy.trans hb, .inl hturns⟩).trans hcomplete
  have hnow : step { s with turns := .engine :: later } = .next u :=
    (step_of_engineNext (s := withTurns (.engine :: later) s) ⟨hb, .inl rfl⟩).trans hu
  obtain ⟨hbusyEnd, -, -, -, -, hepoch, hmem, hmin, hmax, hinfo, hdegen, hcode⟩ :=
    flightOf_eq_iff.1 (hends.flightOf_eq hsame)
  have herrEnd : t.status.err = u.status.err := hends.err_eq (herr'.trans herr.symm)
  have hturnsEnd : t.turns = u.turns := (complete_turns hcomplete).trans (complete_turns hu).symm
  exact ⟨t, u, hrun.trans (run_succ hdelayed 0), hnow, hmem, hepoch, hmin, hmax, hinfo, hdegen, herrEnd, hcode,
    hbusyEnd, hturnsEnd⟩

end Sys2Proof.Proofs
end

section
/-! Command words that name no command (R95, R98, R99, R263, R264): the fields of a word for which the decoder answers
ILLEGAL_OP or SHAPE_MISMATCH, and the completion that such a word fails. -/

namespace Sys2Proof.Machine

open Sys2Proof.Claims

/-! ### The decoder's verdict, by the shape of an OP's row (R95) -/

section
variable (w : Word) (i : Instr)

theorem kselField_lt : kselField w < 16 := Nat.mod_lt _ (by decide)

theorem nop_bits_ne_zero_iff :
    bitField w 19 4 ≠ 0 ↔ kselField w ≠ 0 ∨ dstField w ≠ 0 ∨ srcaField w ≠ 0 ∨ srcbField w ≠ 0 := by
  simp only [kselField, dstField, srcaField, srcbField, bitField]
  norm_num
  omega

theorem plainOrIllegal_eq_illegalOp_iff :
    plainOrIllegal w i = .illegalOp ↔ kselField w ≠ 0 ∨ srcbField w ≠ 0 := by
  simp [plainOrIllegal, imp_iff_not_or]

theorem plainOrIllegal_ne_shapeMismatch : plainOrIllegal w i ≠ .shapeMismatch := by
  unfold plainOrIllegal
  split_ifs <;> simp

theorem decodeConv_eq_illegalOp_iff : decodeConv w = .illegalOp ↔ srcbField w ≠ 0 := by
  unfold decodeConv
  by_cases hsrcb : srcbField w = 0
  · rw [if_neg (not_not.mpr hsrcb)]
    split <;> simp [hsrcb]
  · simp [hsrcb]

/-- CONV with SRCB = 0 knows the four kernels 0 to 3 (R97). -/
theorem decodeConv_eq_shapeMismatch_iff : decodeConv w = .shapeMismatch ↔ srcbField w = 0 ∧ 4 ≤ kselField w := by
  unfold decodeConv
  by_cases hsrcb : srcbField w = 0
  · rw [if_neg (not_not.mpr hsrcb)]
    split
    case h_5 =>
      have hksel : 4 ≤ kselField w := by
        simp only [imp_false] at *
        omega
      simp [hsrcb, hksel]
    all_goals
      next hksel => simp [hksel]
  · simp [hsrcb]

end

/-! ### The decoder's verdict (R98) -/

theorem decode_eq_illegalOp_iff (w : Word) : decode w = .illegalOp ↔ illegalWord w := by
  unfold illegalWord
  by_cases hrsvd : rsvdField w = 0
  · rw [decode, if_neg (not_not.mpr hrsvd)]
    split
    case h_1 hop => simp [← nop_bits_ne_zero_iff, hrsvd, hop]
    case h_4 hop => simp [decodeConv_eq_illegalOp_iff, hrsvd, hop]
    case h_6 hop => simp [hrsvd, hop]
    case h_8 =>
      have hop : 7 ≤ opField w := by
        simp only [imp_false] at *
        omega
      simp [hop]
    all_goals
      next hop => simp [plainOrIllegal_eq_illegalOp_iff, hrsvd, hop]
  · simp [decode, hrsvd]

theorem decode_eq_shapeMismatch_iff (w : Word) : decode w = .shapeMismatch ↔
    opField w = 3 ∧ srcbField w = 0 ∧ rsvdField w = 0 ∧ 4 ≤ kselField w ∧ kselField w ≤ 15 := by
  by_cases hrsvd : rsvdField w = 0
  · rw [decode, if_neg (not_not.mpr hrsvd)]
    split
    case h_1 hop =>
      split_ifs <;> simp [hop]
    case h_4 hop =>
      have hksel : kselField w ≤ 15 := Nat.le_of_lt_succ (kselField_lt w)
      simp [decodeConv_eq_shapeMismatch_iff, hrsvd, hop, hksel]
    case h_6 hop =>
      split_ifs <;> simp [hop]
    case h_8 =>
      have hop : opField w ≠ 3 := by omega
      simp [hop]
    all_goals
      next hop => simp [plainOrIllegal_ne_shapeMismatch, hop]
  · simp [decode, hrsvd]

/-! ### The completion of such a word -/

/-- The model's `fail(code, info)` leaves the state that the statements call failed (R262). -/
theorem commandFail_eq_failed (code : ErrCode) (info : Nat) (s : State) :
    commandFail code info s = failed code (BitVec.ofNat 32 info) s := rfl

theorem commandFail_zero (code : ErrCode) (s : State) : commandFail code 0 s = failed code 0 s := rfl

theorem complete_of_illegalOp {s : State} (h : decode s.cmd = .illegalOp) :
    complete s = .next (failed .illegalOp 0 s) := by
  simp only [complete, h, commandFail_zero]

theorem complete_of_shapeMismatch {s : State} (h : decode s.cmd = .shapeMismatch) :
    complete s = .next (failed .shapeMismatch 0 s) := by
  simp only [complete, h, commandFail_zero]

end Sys2Proof.Machine

namespace Sys2Proof.Proofs

open Sys2Proof.Machine Sys2Proof.Claims

/-- Settles O3: R99's words are those the decoder calls illegal, and the engine's turn is their completion. -/
theorem illegalWordsFailWithIllegalOp : Obligations.IllegalWordsFailWithIllegalOp := by
  unfold Obligations.IllegalWordsFailWithIllegalOp
  exact ⟨decode_eq_illegalOp_iff, fun s later hnext hw =>
    (step_of_engineNext hnext).trans (complete_of_illegalOp ((decode_eq_illegalOp_iff s.cmd).2 hw))⟩

/-- Settles O4: only CONV's row looks for a kernel, and 0 to 3 are the kernels it knows. -/
theorem unknownKernelsFailWithShapeMismatch : Obligations.UnknownKernelsFailWithShapeMismatch := by
  unfold Obligations.UnknownKernelsFailWithShapeMismatch
  exact ⟨decode_eq_shapeMismatch_iff, fun s later hnext hw =>
    (step_of_engineNext hnext).trans (complete_of_shapeMismatch hw)⟩

end Sys2Proof.Proofs
end

section
/-! The failures of a decoded command (R265 to R268, R270): the common checks, which every command but NOP makes before
anything else, and then the centre of WINDOW and the exact sums of CONV. -/

namespace Sys2Proof.Machine

open Sys2Proof.Claims

/-! ### The common checks (R265, R266) -/

/-- Every command but NOP makes the common checks on all the buffers it uses, and computes only after them. -/
theorem exec_eq_runChecked {i : Instr} (hi : i ≠ .nop) (s : State) :
    ∃ body, exec i s = .next (runChecked i.buffers body s) := by
  cases i with
  | nop => exact absurd rfl hi
  | _ => exact ⟨_, rfl⟩

theorem ne_nop_of_mem_buffers {i : Instr} {b : Nat} (h : b ∈ i.buffers) : i ≠ .nop := by
  rintro rfl
  cases h

/-- H and W are naturals, so a dimension is not valid where it is 0 or above its limit. -/
theorem not_validDims_iff (s : State) :
    ¬ validDims s ↔ s.imgH = 0 ∨ s.params.hmax < s.imgH ∨ s.imgW = 0 ∨ s.params.wmax < s.imgW := by
  unfold validDims
  omega

theorem exec_badBuffer {i : Instr} {b : Nat} (hb : b ∈ i.buffers) (hn : Config.nbuf ≤ b) (s : State) :
    exec i s = .next (failed .badBuffer 0 s) := by
  obtain ⟨body, h⟩ := exec_eq_runChecked (ne_nop_of_mem_buffers hb) s
  rw [h, runChecked_badBuffer hb hn, commandFail_zero]

theorem exec_invalidInput {i : Instr} {s : State} (hi : i ≠ .nop) (hb : ∀ b ∈ i.buffers, b < Config.nbuf)
    (hv : ¬ validDims s) : exec i s = .next (failed .invalidInput 0 s) := by
  obtain ⟨body, h⟩ := exec_eq_runChecked hi s
  rw [h, runChecked_invalid hb hv, commandFail_zero]

/-! ### The centre of WINDOW (R267) -/

theorem not_validCentre_iff (s : State) :
    ¬ validCentre s ↔ s.crow = 0 ∨ s.imgH < s.crow ∨ s.ccol = 0 ∨ s.imgW < s.ccol := by
  unfold validCentre
  omega

theorem exec_window_badArg {s : State} {d a : Nat} (hd : d < Config.nbuf) (ha : a < Config.nbuf) (hv : validDims s)
    (hc : ¬ validCentre s) : exec (.window d a) s = .next (failed .badArg 0 s) :=
  congrArg Host.Outcome.next ((runChecked_ok (by simp [hd, ha]) hv _).trans (if_neg hc))

/-! ### The exact sums of CONV (R162, R268) -/

/-- The range check answers the index whose sum does not fit and before which every sum does. -/
theorem firstOverflow_convOutput_eq_some_iff (K : Kernel) (s : State) (a k : Nat) :
    firstOverflow (convOutput K s a) = some k ↔
      k < pixels s ∧ ¬ isS32 (gradientAt K s a k) ∧ ∀ j < k, isS32 (gradientAt K s a j) := by
  simp [firstOverflow, convOutput_eq_map_gradientAt, List.findIdx?_eq_some_iff_getElem, ← fitsS32_eq_true_iff,
    and_left_comm]

/-- Every index of an image-shaped output fits ERR_INFO (R7, R39, R61). -/
theorem pixels_lt_two_pow {s : State} (hp : s.params.wf) (hv : validDims s) : pixels s < 2 ^ 32 := by
  obtain ⟨hfit, -⟩ := layouts_fit hv
  exact lt_of_le_of_lt hfit (capOf_lt_two_pow hp)

theorem exec_conv_overflow {K : Kernel} {s : State} {d a k : Nat} (hd : d < Config.nbuf) (ha : a < Config.nbuf)
    (hv : validDims s) (hk : firstOverflow (convOutput K s a) = some k) :
    exec (convCommand K d a) s = .next (failed .overflow (BitVec.ofNat 32 k) s) := by
  rw [exec_convCommand, convolve, runChecked_ok (by simp [hd, ha]) hv]
  simp only [hk, commandFail_eq_failed]

end Sys2Proof.Machine

namespace Sys2Proof.Proofs

open Sys2Proof.Machine Sys2Proof.Claims

/-- Settles O34: the buffers are the first thing a command checks, so nothing else that is wrong shows. -/
theorem badBufferIndexFails : Obligations.BadBufferIndexFails := by
  unfold Obligations.BadBufferIndexFails
  exact fun i s b hb hn => exec_badBuffer hb hn s

/-- Settles O35: the dimensions are checked next, before any command's own checks. -/
theorem invalidDimensionsFail : Obligations.InvalidDimensionsFail := by
  unfold Obligations.InvalidDimensionsFail
  exact fun i s hi hb hdims => exec_invalidInput hi hb ((not_validDims_iff s).2 hdims)

/-- Settles O36: past the common checks WINDOW checks its centre. -/
theorem windowCentreOutsideFails : Obligations.WindowCentreOutsideFails := by
  unfold Obligations.WindowCentreOutsideFails
  exact fun s d a hd ha hv hcentre => exec_window_badArg hd ha hv ((not_validCentre_iff s).2 hcentre)

/-- Settles O37: past the common checks CONV checks its sums, the lowest index first. -/
theorem overflowReportsTheLowestIndex : Obligations.OverflowReportsTheLowestIndex := by
  unfold Obligations.OverflowReportsTheLowestIndex
  intro K s d a k hp hd ha hv hk hover hbelow
  have hfirst : firstOverflow (convOutput K s a) = some k :=
    (firstOverflow_convOutput_eq_some_iff K s a k).2 ⟨hk, hover, hbelow⟩
  exact ⟨exec_conv_overflow hd ha hv hfirst,
    (BitVec.toNat_ofNat k 32).trans (Nat.mod_eq_of_lt (hk.trans (pixels_lt_two_pow hp hv)))⟩

end Sys2Proof.Proofs
end

section
/-! No step traps (R260), and the interrupt output (R271, R272): IRQ in terms of the words the host reads, and what a
completion does to it. -/

namespace Sys2Proof.Machine

/-! ### Every agent's turn answers a next state -/

theorem engineTurn_goesOn (s : State) : ∃ t, engineTurn s = .next t := by
  unfold engineTurn
  split_ifs
  · obtain ⟨t, ht, -⟩ := complete_ends s
    exact ⟨t, ht⟩
  · exact ⟨s, rfl⟩

/-! ### The IRQ_EN word (R36) -/

theorem IrqEn.toWord_fields (e : IrqEn) :
    bitField e.toWord 0 0 = e.doneIe.toNat ∧ bitField e.toWord 1 1 = e.errIe.toNat ∧
    bitField e.toWord 2 2 = e.violIe.toNat := by
  have := Bool.toNat_le e.doneIe
  have := Bool.toNat_le e.errIe
  have := Bool.toNat_le e.violIe
  simp only [bitField, IrqEn.toWord, BitVec.toNat_ofNat]
  refine ⟨?_, ?_, ?_⟩ <;> omega

@[simp] theorem bitAt_toWord_doneIe (e : IrqEn) : bitAt e.toWord 0 = e.doneIe :=
  bitAt_of_bitField_eq_toNat e.toWord_fields.1
@[simp] theorem bitAt_toWord_errIe (e : IrqEn) : bitAt e.toWord 1 = e.errIe := by
  obtain ⟨-, h, -⟩ := e.toWord_fields
  exact bitAt_of_bitField_eq_toNat h
@[simp] theorem bitAt_toWord_violIe (e : IrqEn) : bitAt e.toWord 2 = e.violIe := by
  obtain ⟨-, -, h⟩ := e.toWord_fields
  exact bitAt_of_bitField_eq_toNat h

theorem hostRead_irqEn (s : State) : hostRead 0x1C s = (s.irqEn.toWord, s) :=
  hostRead_offset (r := .irqEn) (by simp) s

/-! ### IRQ (R271) -/

theorem irq_of_done {s : State} (hd : s.status.done = true) (hie : s.irqEn.doneIe = true) : irq s = true := by
  simp [irq, hd, hie]

/-- A completion sets DONE and leaves IRQ_EN alone (R233, R262). -/
theorem complete_done_irqEn {s t : State} (h : complete s = .next t) :
    t.status.done = true ∧ t.irqEn = s.irqEn := by
  rcases complete_fails_or_done h with ⟨code, info, -, rfl⟩ | e
  · exact ⟨rfl, rfl⟩
  · rw [e]
    exact ⟨rfl, rfl⟩

end Sys2Proof.Machine

namespace Sys2Proof.Proofs

open Sys2Proof.Machine Sys2Proof.Claims

/-- Settles O10: the host's turn and the reset always answer a state, and the engine's turn ends its command, well or by
`fail(code, info)`. -/
theorem everyStepGoesOn : Obligations.EveryStepGoesOn := by
  unfold Obligations.EveryStepGoesOn
  intro s
  unfold step
  split
  · split_ifs
    · exact engineTurn_goesOn s
    · exact ⟨_, rfl⟩
  · exact ⟨_, rfl⟩
  · exact engineTurn_goesOn _
  · exact ⟨_, rfl⟩

/-- Settles O27: each bit of the two words is the field that IRQ is a function of, and a completion sets DONE. -/
theorem irqFollowsStatusAndEnables : Obligations.IrqFollowsStatusAndEnables := by
  unfold Obligations.IrqFollowsStatusAndEnables
  refine ⟨fun s => ?_, fun s later t hnext hie ht => ?_⟩
  · simp [irq, hostRead_status, hostRead_irqEn]
  · obtain ⟨hdone, hen⟩ := complete_done_irqEn ((step_of_engineNext hnext).symm.trans ht)
    exact irq_of_done hdone ((congrArg IrqEn.doneIe hen).trans hie)

end Sys2Proof.Proofs
end

section
/-! Reset (R300 to R303): what the registers and the frame buffers read in the reset state, the invariant there, and the
reset's turn in any state. -/

namespace Sys2Proof.Machine

/-! ### The parameters (R7) -/

theorem reset_params_wf : State.reset.params.wf :=
  ⟨Nat.succ_pos _, Config.hmaxLess1.isLt, Nat.succ_pos _, Config.wmaxLess1.isLt⟩

/-- Each half of CAPS_DIM is one size limit, for the parameters R7 allows (R24). -/
theorem hostRead_capsDim_halves {s : State} (h : s.params.wf) :
    bitField (hostRead 0x08 s).1 15 0 = s.params.hmax ∧ bitField (hostRead 0x08 s).1 31 16 = s.params.wmax := by
  have hread : hostRead 0x08 s = (regValue s .capsDim, s) := hostRead_offset (r := .capsDim) nofun s
  have hword := regValue_capsDim_toNat h
  obtain ⟨-, hh, -, -⟩ := h
  rw [hread, bitField_low_half, bitField_high_half, hword]
  omega

/-! ### The reset state (R301, R302) -/

/-- The registers that R301 lists with the value 0: all but the three constants and HP_DATA, which is no storage. -/
def zeroedRegs : List Reg :=
  [.imgDim, .cmdArg, .cmd, .status, .irqEn, .scanMinLo, .scanMinHi, .scanMaxLo, .scanMaxHi, .hpBuf, .hpIdx, .errInfo]

theorem regValue_resetWith {r : Reg} (hr : r ∈ zeroedRegs) (p : Params) : regValue (.resetWith p) r = 0 := by
  cases r with
  | id | caps | capsDim | hpData => simp [zeroedRegs] at hr
  | status => exact reset_toWord
  | scanMinHi | scanMaxHi => simp [regValue, State.resetWith]
  | _ => rfl

theorem hostRead_resetWith {r : Reg} (hr : r ∈ zeroedRegs) (p : Params) :
    (hostRead r.offset (.resetWith p)).1 = 0 := by
  have hdata : r ≠ .hpData := by rintro rfl; simp [zeroedRegs] at hr
  rw [hostRead_offset hdata, regValue_resetWith hr]

/-- An element that nothing has written reads as the free value (U1). -/
theorem elemWord_of_mem_nil {s : State} (h : s.mem = []) (b k : Nat) :
    elemWord s b k = Config.unwritten s.epoch (elemAddr b k) := by
  rw [elemWord, h, Memory.find, Option.getD_none]

theorem EngineInv.resetWith {p : Params} (h : p.wf) : EngineInv (.resetWith p) :=
  ⟨h, by simp [memorySafe, State.resetWith], by simp [outcomeSafe, State.resetWith, Status.reset]⟩

/-! ### The reset's turn (R300, R303) -/

theorem step_of_resetTurn {s : State} {later : List Turn} (h : s.turns = .reset :: later) :
    step s = .next (resetEngine { s with turns := later }) := by
  rw [step, h]

end Sys2Proof.Machine

namespace Sys2Proof.Proofs

open Sys2Proof.Machine

/-- Settles O6: ID and CAPS are constants, CAPS_DIM is the parameters', and every other register and element is as reset
leaves it. -/
theorem resetLeavesTheListedValues : Obligations.ResetLeavesTheListedValues := by
  unfold Obligations.ResetLeavesTheListedValues
  intro p hp
  obtain ⟨hh, hw⟩ := hostRead_capsDim_halves (s := .resetWith p) hp
  refine ⟨rfl, rfl, hh, hw, fun off hoff => ?_, rfl, rfl, elemWord_of_mem_nil rfl⟩
  obtain ⟨r, hr, rfl⟩ : ∃ r ∈ zeroedRegs, r.offset = off := List.mem_map.1 hoff
  exact hostRead_resetWith hr p

/-- Settles O7: the reset's turn is `resetEngine`, which asks nothing of the command in flight. -/
theorem resetTurnAbandonsEverything : Obligations.ResetTurnAbandonsEverything := by
  unfold Obligations.ResetTurnAbandonsEverything
  exact fun s later h => ⟨_, step_of_resetTurn h, rfl, elemWord_of_mem_nil (resetEngine_mem _)⟩

/-- Settles O8: R7's bounds hold of the engine's parameters, and at reset the memory is empty and the outcome clear. -/
theorem resetSatisfiesInv : Obligations.ResetSatisfiesInv := by
  unfold Obligations.ResetSatisfiesInv
  exact EngineInv.resetWith reset_params_wf

end Sys2Proof.Proofs
end
